-- ==== Sys2Proof/Word.lean ====
section
/-! DEFINITION. The word types of CORE (00_scope.md R7, R9, R10): every value is an unsigned
integer of its stated width. Bit 0 is the least significant bit. -/

namespace Sys2Proof

/-- A byte of memory, a general register, a timer (R7: REG_W, TIMER_W). -/
abbrev Byte := BitVec 8

/-- An instruction word, I, PC, a call-stack entry, the keypad latch (R7: I_W, PC_W, STACK_W, NKEYS). -/
abbrev Word := BitVec 16

/-- A register index, the 4-bit field x or y (R72: 0..15; R73: all 16 values are legal). -/
abbrev Reg := Fin 16

end Sys2Proof
end

