-- ==== Sys2Proof/Config.lean ====
section
/-! DEFINITION. What the spec leaves free for CORE. All sizes are fixed by 00_scope.md R7 and stand
as literals in the model. FONT (R8) is an argument, of type `Machine.Font`, with its default in
Machine/Font.lean (log 3). -/

namespace Sys2Proof.Config

/-- FREE VALUE. The bytes RND the host supplies (10_state.md R34, 70_reset_and_hazards.md R214): the
n-th byte that an `RND Vx, kk` consumes. No law at all (decision D16), so no body: nothing can be
proved of its values, and a claim holds for every sequence the host may supply (log 2). -/
opaque rnd : Nat → Byte

end Sys2Proof.Config
end

