-- ==== Sys2Proof/Machine/Flags.lean ====
section
/-! DEFINITION. The results and flags of the ALU group (42_alu.md R123 to R133), of `ADD I, Vx`
(43_index_memory.md R141) and the timer step (40_step_cycle.md R95). Each flagged operation gives the
flag VF receives and the 8-bit result. -/

namespace Sys2Proof.Machine

/-- A flag as VF holds it: 1 or 0 (R21). -/
def flagByte (f : Bool) : Byte := if f then 1 else 0

/-- R127: carry out of the unwrapped sum; the sum modulo 256. -/
def addFlagged (a b : Byte) : Bool × Byte := (decide (255 < a.toNat + b.toNat), a + b)

/-- R128: Vx > Vy, strictly (C8: 0 at equality); a - b modulo 256. -/
def subFlagged (a b : Byte) : Bool × Byte := (decide (b.toNat < a.toNat), a - b)

/-- R130: Vx < Vy, strictly; b - a modulo 256. -/
def subnFlagged (a b : Byte) : Bool × Byte := (decide (a.toNat < b.toNat), b - a)

/-- R129: the bit shifted out, bit 0; a div 2. -/
def shrFlagged (a : Byte) : Bool × Byte := (a.getLsbD 0, a >>> 1)

/-- R131: the bit shifted out, bit 7; a * 2 modulo 256. -/
def shlFlagged (a : Byte) : Bool × Byte := (a.getLsbD 7, a <<< 1)

/-- R141: the unwrapped sum I + Vx exceeds 0xFFF; the sum modulo 65536 (D9, log 12). -/
def indexAddFlagged (i : Word) (a : Byte) : Bool × Word :=
  (decide (0xFFF < i.toNat + a.toNat), i + a.setWidth 16)

/-- R95: a timer above 0 goes down by 1, a timer at 0 stays. -/
def timerDown (t : Byte) : Byte := if t = 0 then 0 else t - 1

end Sys2Proof.Machine
end

