-- ==== Sys2Proof/Machine/Font.lean ====
section
/-! DEFINITION. FONT, the font table at bytes 0 to 79 after reset (10_state.md R27): an argument of the model
(R8) of type `Font`, whose default is the conventional table, from general knowledge (D7, G3; log 3).
`State.resetWith` and the host's `Session` take it. A claim that depends on a glyph's shape must name
FONT as its premise. -/

namespace Sys2Proof.Machine

/-- The argument FONT: any 80 bytes (R8). -/
abbrev Font := Vector Byte 80

/-- Glyphs 0 to 3, five bytes each, top row first (R27). -/
def font03 : List Byte :=
  [0xF0, 0x90, 0x90, 0x90, 0xF0] ++ [0x20, 0x60, 0x20, 0x20, 0x70] ++
  [0xF0, 0x10, 0xF0, 0x80, 0xF0] ++ [0xF0, 0x10, 0xF0, 0x10, 0xF0]

/-- Glyphs 4 to 7. -/
def font47 : List Byte :=
  [0x90, 0x90, 0xF0, 0x10, 0x10] ++ [0xF0, 0x80, 0xF0, 0x10, 0xF0] ++
  [0xF0, 0x80, 0xF0, 0x90, 0xF0] ++ [0xF0, 0x10, 0x20, 0x40, 0x40]

/-- Glyphs 8 to B. -/
def font8B : List Byte :=
  [0xF0, 0x90, 0xF0, 0x90, 0xF0] ++ [0xF0, 0x90, 0xF0, 0x10, 0xF0] ++
  [0xF0, 0x90, 0xF0, 0x90, 0x90] ++ [0xE0, 0x90, 0xE0, 0x90, 0xE0]

/-- Glyphs C to F. -/
def fontCF : List Byte :=
  [0xF0, 0x80, 0x80, 0x80, 0xF0] ++ [0xE0, 0x90, 0x90, 0x90, 0xE0] ++
  [0xF0, 0x80, 0xF0, 0x80, 0xF0] ++ [0xF0, 0x80, 0xF0, 0x80, 0x80]

/-- The default of FONT, FONT[0] to FONT[79] (R27). -/
def defaultFont : Font := ⟨(font03 ++ font47 ++ font8B ++ fontCF).toArray, rfl⟩

end Sys2Proof.Machine
end

