-- ==== Sys2Proof/Machine/State.lean ====
section
/-! DEFINITION. The state of CORE as plain data (10_state.md), the state after reset, and the reasons a
step or a host move can stop. CORE's own state is `CoreState`: the fields of R36's table and nothing else
(R35). `State` is that and, beside it, the place in the sequence of bytes the host supplies (log 2). -/

namespace Sys2Proof.Machine

/-- MEM (R26): the bytes that differ from the reset contents, by rising address (log 10). -/
abbrev Memory := List Host.Cell

/-- FB (R31, R150): 32 rows of 64 cells, `true` = on. -/
abbrev Framebuffer := Vector (Vector Bool 64) 32

/-- The codes of the fault latch by name (R33, R178); their numbers are `errCodeNumber` in Ops.lean. -/
inductive ErrCode where
  /-- no fault has happened: running -/
  | noFault
  /-- R171 -/
  | fetchOutOfBounds
  /-- R172; ERR.info holds the word -/
  | unknownOpcode
  /-- R173 -/
  | stackOverflow
  /-- R174 -/
  | stackUnderflow
  /-- R175 -/
  | dataOutOfBounds
  /-- R177 -/
  | keyIndexOutOfRange
  deriving DecidableEq, Repr

/-- ERR, the sticky fault latch (R33). -/
structure ErrLatch where
  /-- ERR.code -/
  code : ErrCode
  /-- ERR.info, 16 bits -/
  info : Word
  deriving DecidableEq, Repr

/-- Every piece of state the spec gives CORE (R36, R37): there is no other (R35). -/
structure CoreState where
  /-- V0 to VF (R20); V[15] is VF (R21) -/
  v : Vector Byte 16
  /-- I (R22) -/
  i : Word
  /-- PC (R23) -/
  pc : Word
  /-- STACK[0] to STACK[15] (R24) -/
  stack : Vector Word 16
  /-- SP, the number of entries in use: the 17 values 0 to 16 (R25) -/
  sp : Fin 17
  /-- MEM (R26, R50) -/
  mem : Memory
  /-- DT (R28) -/
  dt : Byte
  /-- ST (R29) -/
  st : Byte
  /-- KEYS (R30): bit k is key k; written by the host only -/
  keys : BitVec 16
  /-- FB (R31) -/
  fb : Framebuffer
  /-- REDRAW (R32) -/
  redraw : Bool
  /-- ERR (R33) -/
  err : ErrLatch
  deriving DecidableEq, Repr

/-- What a step maps: CORE's state and, outside it, where the host stands in the bytes it supplies. -/
structure State extends CoreState where
  /-- The model's own, no state of CORE (R34, R35): how many RND bytes the host has supplied to
  `RND Vx, kk` (log 2) -/
  rndDraws : Nat
  deriving DecidableEq, Repr

/-- Outcomes `fault`: stops that are not the spec's six faults (those are NEXT states, log 1). -/
inductive Fault where
  /-- Raised by the host move `load` (Session.move) after the first tick: the spec gives a host write
  of MEM no meaning then (R61, D18). No step and no instruction raises it. Safe: the model stops. -/
  | loadAfterFirstTick
  /-- Raised by the host move `load` (Session.move) when an image has been loaded since reset: the load
  happens once (R211, D18). No step and no instruction raises it. Safe: the model stops. -/
  | loadTwice
  deriving DecidableEq, Repr

/-- Outcomes `refused`. -/
inductive Refusal where
  /-- Raised by `exec` for an instruction that has no meaning yet; no arm does. Safe. -/
  | notModelled (mnemonic : String)
  /-- Raised by the host move `load` (Session.move) for an image longer than 3584 bytes: the host
  refuses it and no run starts (R183, R211). No step and no instruction raises it. Safe. -/
  | programTooLarge
  deriving DecidableEq, Repr

/-- What running an instruction or a tick answers. -/
abbrev Result := Host.Outcome State Fault Refusal

/-- The state after reset: the table of R36, with the default FONT and zeros in memory (nothing is
listed). `State.resetWith` takes another FONT (R8, R27). The values of I, DT, ST, KEYS, FB, REDRAW are the spec's decision D11 (log 9); `rndDraws` is
the model's own (DESIGN CHOICE, log 2). -/
def State.reset : State where
  v := Vector.replicate 16 0
  i := 0
  pc := 512
  stack := Vector.replicate 16 0
  sp := 0
  mem := []
  dt := 0
  st := 0
  keys := 0
  fb := Vector.replicate 32 (Vector.replicate 64 false)
  redraw := false
  err := { code := .noFault, info := 0 }
  rndDraws := 0

end Sys2Proof.Machine
end

