-- ==== Sys2Proof/Machine/Memory.lean ====
section
/-! DEFINITION. MEM, 4096 bytes (20_memory.md). A memory lists, by strictly rising address, the bytes
that differ from the reset contents under the default FONT, so equal memories are equal lists (`Memory.wf`). -/

namespace Sys2Proof.Machine

/-- What an address that is not listed reads as: the reset contents (R36) under the default FONT, its
bytes at 0 to 79 and 0 from 80 on. Under another FONT the bytes that differ are listed (`State.resetWith`). Addresses above 4095 do not exist; they are never reached (`rangeFaults`), and read as 0 here only
to make the function total (log 10). -/
def Memory.unlisted (a : Nat) : Byte := defaultFont.toList.getD a 0

/-- R52, `MemRead(a, 1)` for an address in range. -/
def Memory.read (m : Memory) (a : Nat) : Byte :=
  match m with
  | [] => Memory.unlisted a
  | (b, w) :: rest => if b = a then w else Memory.read rest a

/-- List the byte `v` at address `a`, in order, in place of an earlier entry. -/
def Memory.insert (m : Memory) (a : Nat) (v : Byte) : Memory :=
  match m with
  | [] => [(a, v)]
  | (b, w) :: rest =>
    if a < b then (a, v) :: (b, w) :: rest
    else if b = a then (a, v) :: rest
    else (b, w) :: Memory.insert rest a v

/-- List nothing at address `a`. -/
def Memory.erase (m : Memory) (a : Nat) : Memory := m.filter (fun c => c.1 != a)

/-- R52, `MemWrite(a, 1, v)` for an address in range: MEM[a] becomes v, nothing else changes (R56). -/
def Memory.write (m : Memory) (a : Nat) (v : Byte) : Memory :=
  if v = Memory.unlisted a then m.erase a else m.insert a v

/-- The bytes at a, a+1, ..., n of them, lowest address first (R54). -/
def Memory.readBytes (m : Memory) (a n : Nat) : List Byte :=
  match n with
  | 0 => []
  | k + 1 => m.read a :: Memory.readBytes m (a + 1) k

/-- Store bytes at a, a+1, ..., the first at the lowest address (R54). -/
def Memory.writeBytes (m : Memory) (a : Nat) (bytes : List Byte) : Memory :=
  match bytes with
  | [] => m
  | b :: rest => Memory.writeBytes (m.write a b) (a + 1) rest

/-- The canonical form: addresses strictly rising and below 4096, no entry equal to what the address
reads as when it is not listed. -/
def Memory.wf (m : Memory) : Bool :=
  decide (m.Pairwise (fun c d => c.1 < d.1)) &&
  m.all (fun c => decide (c.1 < 4096) && c.2 != Memory.unlisted c.1)

/-- R64, R175: of `n` bytes from address `a` (an unbounded integer, R62) the highest lies above 4095.
With n = 0 nothing is accessed. -/
def rangeFaults (a n : Nat) : Bool := decide (0 < n) && decide (4095 < a + n - 1)

end Sys2Proof.Machine
end

