-- ==== Sys2Proof/Machine/Ops.lean ====
section
/-! DEFINITION. The named operations over registers, the stack, the framebuffer and the fault latch
that every meaning goes through, and the end of a tick. -/

namespace Sys2Proof.Machine

/-! ## Registers -/

/-- VF, register 15 (R21). -/
def vf : Reg := 15

/-- Read V[r] (R20). No register is hardwired. -/
abbrev State.getV (s : State) (r : Reg) : Byte := s.v[r.val]

/-- Write V[r] (R20). -/
def State.setV (s : State) (r : Reg) (b : Byte) : State := { s with v := s.v.set r.val b }

/-- Write all sixteen registers at once. -/
def State.setRegs (s : State) (v : Vector Byte 16) : State := { s with v := v }

/-- Write I (R22). -/
def State.setI (s : State) (w : Word) : State := { s with i := w }

/-- Write PC (R23). -/
def State.setPc (s : State) (w : Word) : State := { s with pc := w }

/-- `PC <- PC + n` (R94). -/
def State.advance (s : State) (n : Word) : State := { s with pc := s.pc + n }

/-- Write DT (R28). -/
def State.setDt (s : State) (b : Byte) : State := { s with dt := b }

/-- Write ST (R29). -/
def State.setSt (s : State) (b : Byte) : State := { s with st := b }

/-- Replace MEM. -/
def State.setMem (s : State) (m : Memory) : State := { s with mem := m }

/-- Replace FB and set REDRAW, as `CLS` and `DRW` always do together (R156). -/
def State.present (s : State) (fb : Framebuffer) : State := { s with fb := fb, redraw := true }

/-- Registers V[k], V[k+1], ... take the bytes in turn (R145: `for i = 0 to x: V[i] <- ...`). -/
def fillRegs (v : Vector Byte 16) (k : Nat) (bytes : List Byte) : Vector Byte 16 :=
  match bytes with
  | [] => v
  | b :: rest => fillRegs (v.setIfInBounds k b) (k + 1) rest

/-- The byte RND of this tick (R34, R132): an input, a free value (log 2). -/
def State.rndByte (s : State) : Byte := Config.rnd s.rndDraws

/-- That byte is consumed; the next `RND` sees another one (R98). -/
def State.rndConsumed (s : State) : State := { s with rndDraws := s.rndDraws + 1 }

/-! ## Taking a fault (R176) and the codes (R178) -/

/-- `raise F(info)` and its recording in ERR (R176): ERR.code and ERR.info are written and nothing else
changes; PC stays at the faulting instruction. A NEXT state: the machine is then halted (R96, log 1).
There is no return from it but reset (R181). -/
def raiseFault (code : ErrCode) (info : Word) (s : State) : Result :=
  .next { s with err := { code := code, info := info } }

/-- ERR.code as the 3-bit number of R178. -/
def errCodeNumber (c : ErrCode) : BitVec 3 :=
  match c with
  | .noFault => 0
  | .fetchOutOfBounds => 1
  | .unknownOpcode => 2
  | .stackOverflow => 3
  | .stackUnderflow => 4
  | .dataOutOfBounds => 5
  | .keyIndexOutOfRange => 6

/-- An access to `n` bytes from address `a` on: DataOutOfBounds if the highest lies above 4095, before
anything is changed (R64, R175); otherwise the instruction goes on. -/
def withRange (a n : Nat) (s : State) (go : Result) : Result :=
  if rangeFaults a n then raiseFault .dataOutOfBounds 0 s else go

/-! ## The call stack -/

/-- R102: push a return address, unless SP = 16. -/
def pushReturn (s : State) (a : Word) : Option State :=
  if h : s.sp.val < 16 then
    some { s with stack := s.stack.set s.sp.val a, sp := ⟨s.sp.val + 1, by omega⟩ }
  else none

/-- R100: decrement SP, then read the entry just uncovered, unless SP = 0. The entry keeps its value
(R24). -/
def popReturn (s : State) : Option (Word × State) :=
  if h : s.sp.val = 0 then none
  else some (s.stack[s.sp.val - 1]'(by omega), { s with sp := ⟨s.sp.val - 1, by omega⟩ })

/-! ## The framebuffer -/

/-- FB[r][c] (R31). -/
def fbGet (fb : Framebuffer) (r : Fin 32) (c : Fin 64) : Bool := fb[r.val][c.val]

/-- FB[r][c] <- b. -/
def fbSet (fb : Framebuffer) (r : Fin 32) (c : Fin 64) (b : Bool) : Framebuffer :=
  fb.set r.val (fb[r.val].set c.val b)

/-- All cells off (R151). -/
def fbClear : Framebuffer := Vector.replicate 32 (Vector.replicate 64 false)

/-- One set sprite bit on one cell (R152): a cell that is on goes off and a collision is noted; a cell
that is off goes on. The second component is the logical OR of the collisions so far (R155). -/
def togglePixel (p : Framebuffer × Bool) (t : Fin 32 × Fin 64) : Framebuffer × Bool :=
  if fbGet p.1 t.1 t.2 then (fbSet p.1 t.1 t.2 false, true) else (fbSet p.1 t.1 t.2 true, p.2)

/-- The set sprite bits of one `DRW` in their order, starting with no collision (R152, R155). -/
def drawPixels (targets : List (Fin 32 × Fin 64)) (fb : Framebuffer) : Framebuffer × Bool :=
  targets.foldl togglePixel (fb, false)

/-! ## Shared ends of instructions -/

/-- The instruction's last step `PC <- PC + 2` (R94). -/
def finish (s : State) : Result := .next (s.advance 2)

/-- R94: PC + 4 if the condition holds, else PC + 2; the skipped word is not looked at. -/
def skipIf (c : Bool) (s : State) : Result := .next (s.advance (if c then 4 else 2))

/-! ## The end of a tick -/

/-- R95: both timers count down. -/
def countdown (s : State) : State := { s with dt := timerDown s.dt, st := timerDown s.st }

/-- R90: after a step that raised no fault the timers count down; a fault's state stays as it is. -/
def endTick (r : Result) : Result :=
  match r with
  | .next s => if s.err.code = .noFault then .next (countdown s) else .next s
  | .fault f => .fault f
  | .refused q => .refused q

end Sys2Proof.Machine
end

