-- ==== Sys2Proof/Machine/Operands.lean ====
section
/-! DEFINITION. The operand forms of CORE: the effective addresses of 20_memory.md R62, R63, the decimal
digits of R143, the register block of R144, the highest key of R162 and the pixels a sprite reaches
(44_display.md R150, R152, R153). -/

namespace Sys2Proof.Machine

/-- The one addressing mode, I plus a small offset, in unbounded integers (R62, R63). -/
abbrev dataAddr (s : State) (k : Nat) : Nat := s.i.toNat + k

/-- A 12-bit immediate widened with zeros (R73). -/
def zext12 (nnn : BitVec 12) : Word := nnn.setWidth 16

/-- R107: V[0] + nnn, both widened to 16 bits; the sum is at most 0x10FE, so it does not wrap. -/
def offsetTarget (v0 : Byte) (nnn : BitVec 12) : Word := v0.setWidth 16 + zext12 nnn

/-- R142: 5 times the whole 8-bit value (D10, log 12). -/
def glyphAddr (a : Byte) : Word := BitVec.ofNat 16 (5 * a.toNat)

/-- R143: the hundreds, tens and ones digits, one a byte, in the order they are stored. -/
def bcdDigits (a : Byte) : List Byte :=
  [BitVec.ofNat 8 (a.toNat / 100), BitVec.ofNat 8 (a.toNat / 10 % 10), BitVec.ofNat 8 (a.toNat % 10)]

/-- R144: V[0] to V[x], V[0] first. -/
def regBlock (v : Vector Byte 16) (x : Reg) : List Byte := v.toList.take (x.val + 1)

/-- The largest index below `n` with KEYS[k] = 1. -/
def highestKeyBelow (keys : BitVec 16) (n : Nat) : Option Nat :=
  match n with
  | 0 => none
  | k + 1 => if keys.getLsbD k then some k else highestKeyBelow keys k

/-- R162: the largest index 0..15 with KEYS[k] = 1; `none` with no key down. -/
def highestKey (keys : BitVec 16) : Option Nat := highestKeyBelow keys 16

/-- R153: the row of a pixel, saturating at the last row. The sum is not reduced before. -/
def clampRow (r : Nat) : Fin 32 := ⟨min r 31, by omega⟩

/-- R153: the column of a pixel, saturating at the last column. -/
def clampCol (c : Nat) : Fin 64 := ⟨min c 63, by omega⟩

/-- R150, R152: the cells that one row byte's set bits reach, most significant bit first; pixel j is bit
7 - j. -/
def rowTargets (vx row : Nat) (b : Byte) : List (Fin 32 × Fin 64) :=
  ([0, 1, 2, 3, 4, 5, 6, 7].filter (fun j => b.getLsbD (7 - j))).map
    (fun j => (clampRow row, clampCol (vx + j)))

/-- R152: the cells that a sprite's set bits reach, in the order of the loop, rows top to bottom;
`row` is the unclamped row of the first byte. -/
def spriteTargets (vx row : Nat) (bytes : List Byte) : List (Fin 32 × Fin 64) :=
  match bytes with
  | [] => []
  | b :: rest => rowTargets vx row b ++ spriteTargets vx (row + 1) rest

end Sys2Proof.Machine
end

