-- ==== Sys2Proof/Machine/Alu.lean ====
section
/-! DEFINITION. Register loads, the ALU group and RND (42_alu.md). None can fault. -/

namespace Sys2Proof.Machine

/-- R123 for the five flag-writing operations, given what they compute from the latched operands: VF
receives the flag, then V[x] the result, so that with x = 15 the result stays (C7). -/
def writeFlagged (x : Reg) (fr : Bool × Byte) (s : State) : Result :=
  finish ((s.setV vf (flagByte fr.1)).setV x fr.2)

/-- R123 for the operations without a flag: V[x] receives the result, VF is left alone. -/
def writePlain (x : Reg) (b : Byte) (s : State) : Result := finish (s.setV x b)

/-- R120. -/
def execLdByte (x : Reg) (kk : Byte) (s : State) : Result := writePlain x kk s

/-- R121: wraps, no flag. -/
def execAddByte (x : Reg) (kk : Byte) (s : State) : Result := writePlain x (s.getV x + kk) s

/-- R122 (not in the source: D5, log 5). -/
def execLdReg (x y : Reg) (s : State) : Result := writePlain x (s.getV y) s

/-- R124. -/
def execOrReg (x y : Reg) (s : State) : Result := writePlain x (s.getV x ||| s.getV y) s

/-- R125. -/
def execAndReg (x y : Reg) (s : State) : Result := writePlain x (s.getV x &&& s.getV y) s

/-- R126. -/
def execXorReg (x y : Reg) (s : State) : Result := writePlain x (s.getV x ^^^ s.getV y) s

/-- R127. -/
def execAddReg (x y : Reg) (s : State) : Result := writeFlagged x (addFlagged (s.getV x) (s.getV y)) s

/-- R128. -/
def execSub (x y : Reg) (s : State) : Result := writeFlagged x (subFlagged (s.getV x) (s.getV y)) s

/-- R129: y is ignored (R77). -/
def execShr (x _y : Reg) (s : State) : Result := writeFlagged x (shrFlagged (s.getV x)) s

/-- R130. -/
def execSubn (x y : Reg) (s : State) : Result := writeFlagged x (subnFlagged (s.getV x) (s.getV y)) s

/-- R131: y is ignored (R77). -/
def execShl (x _y : Reg) (s : State) : Result := writeFlagged x (shlFlagged (s.getV x)) s

/-- R132 with the tick's byte RND as an argument. -/
def maskedRandom (x : Reg) (kk rnd : Byte) (s : State) : Result := writePlain x (rnd &&& kk) s

/-- R132: the byte is the free value of this draw, and it is consumed (log 2). -/
def execRnd (x : Reg) (kk : Byte) (s : State) : Result := maskedRandom x kk s.rndByte s.rndConsumed

end Sys2Proof.Machine
end

