-- ==== Sys2Proof/Machine/ControlFlow.lean ====
section
/-! DEFINITION. Control flow (41_control_flow.md): RET, JP, CALL, the register skips, JP V0. PC on entry
is the address of the instruction itself (R23). -/

namespace Sys2Proof.Machine

/-- R100. -/
def execRet (s : State) : Result :=
  match popReturn s with
  | none => raiseFault .stackUnderflow 0 s
  | some (a, t) => .next (t.setPc a)

/-- R101. -/
def execJp (nnn : BitVec 12) (s : State) : Result := .next (s.setPc (zext12 nnn))

/-- R102: pushes PC + 2, as a 16-bit number (C4). -/
def execCall (nnn : BitVec 12) (s : State) : Result :=
  match pushReturn s (s.pc + 2) with
  | none => raiseFault .stackOverflow 0 s
  | some t => .next (t.setPc (zext12 nnn))

/-- R103. -/
def execSeByte (x : Reg) (kk : Byte) (s : State) : Result := skipIf (s.getV x == kk) s

/-- R104. -/
def execSneByte (x : Reg) (kk : Byte) (s : State) : Result := skipIf (s.getV x != kk) s

/-- R105. -/
def execSeReg (x y : Reg) (s : State) : Result := skipIf (s.getV x == s.getV y) s

/-- R106. -/
def execSneReg (x y : Reg) (s : State) : Result := skipIf (s.getV x != s.getV y) s

/-- R107: the base is always V[0]; VF is not written. -/
def execJpV0 (nnn : BitVec 12) (s : State) : Result := .next (s.setPc (offsetTarget (s.getV 0) nnn))

end Sys2Proof.Machine
end

