-- ==== Sys2Proof/Machine/Display.lean ====
section
/-! DEFINITION. The framebuffer instructions (44_display.md). -/

namespace Sys2Proof.Machine

/-- R151: every cell off, REDRAW set; VF is not written. -/
def execCls (s : State) : Result := finish (s.present fbClear)

/-- R152: the sprite of n bytes at I, its first pixel at column V[x], row V[y], both read before VF is
written (R155, D12), toggled cell by cell with the coordinates clamped (R153). VF is 1 if any pixel
collided, else 0 (R155); REDRAW is set whether or not a cell changed (R156); with n = 0 nothing is read
or drawn and no fault can occur. -/
def execDrw (x y : Reg) (n : BitVec 4) (s : State) : Result :=
  withRange (dataAddr s 0) n.toNat s
    (let drawn := drawPixels
        (spriteTargets (s.getV x).toNat (s.getV y).toNat (s.mem.readBytes (dataAddr s 0) n.toNat)) s.fb
     finish ((s.setV vf (flagByte drawn.2)).present drawn.1))

end Sys2Proof.Machine
end

