-- ==== Sys2Proof/Machine/IndexMemory.lean ====
section
/-! DEFINITION. The index register and memory transfers (43_index_memory.md). -/

namespace Sys2Proof.Machine

/-- R140. -/
def execLdI (nnn : BitVec 12) (s : State) : Result := finish (s.setI (zext12 nnn))

/-- R141: VF receives the flag; I is not masked to 12 bits. -/
def execAddI (x : Reg) (s : State) : Result :=
  let fr := indexAddFlagged s.i (s.getV x)
  finish ((s.setV vf (flagByte fr.1)).setI fr.2)

/-- R142: no memory is accessed. -/
def execLdF (x : Reg) (s : State) : Result := finish (s.setI (glyphAddr (s.getV x)))

/-- R143: three digits at I, I+1, I+2; I is not changed. -/
def execLdB (x : Reg) (s : State) : Result :=
  withRange (dataAddr s 0) 3 s
    (finish (s.setMem (s.mem.writeBytes (dataAddr s 0) (bcdDigits (s.getV x)))))

/-- R144: V[0] to V[x] at I on; I ends one past the last byte. -/
def execStoreRegs (x : Reg) (s : State) : Result :=
  withRange (dataAddr s 0) (x.val + 1) s
    (finish ((s.setMem (s.mem.writeBytes (dataAddr s 0) (regBlock s.v x))).setI
      (BitVec.ofNat 16 (dataAddr s (x.val + 1)))))

/-- R145: V[0] to V[x] from I on; registers above x are not touched; I ends one past the last byte. -/
def execLoadRegs (x : Reg) (s : State) : Result :=
  withRange (dataAddr s 0) (x.val + 1) s
    (finish ((s.setRegs (fillRegs s.v 0 (s.mem.readBytes (dataAddr s 0) (x.val + 1)))).setI
      (BitVec.ofNat 16 (dataAddr s (x.val + 1)))))

end Sys2Proof.Machine
end

