-- ==== Sys2Proof/Machine/KeypadTimers.lean ====
section
/-! DEFINITION. Keypad and timer instructions (45_keypad_timers.md). The countdown of the same tick comes
after them (R166); it is `endTick`. -/

namespace Sys2Proof.Machine

/-- The key skips (R160, R161): KeyIndexOutOfRange if V[x] > 15 (R177), else a skip on the latch bit. -/
def skipOnKey (x : Reg) (down : Bool) (s : State) : Result :=
  if 15 < (s.getV x).toNat then raiseFault .keyIndexOutOfRange 0 s
  else skipIf (s.keys.getLsbD (s.getV x).toNat == down) s

/-- R160. -/
def execSkp (x : Reg) (s : State) : Result := skipOnKey x true s

/-- R161. -/
def execSknp (x : Reg) (s : State) : Result := skipOnKey x false s

/-- R162: with no key down nothing changes, PC included, and the step succeeds; otherwise the highest
index that is down. -/
def execLdVxK (x : Reg) (s : State) : Result :=
  match highestKey s.keys with
  | none => .next s
  | some k => finish (s.setV x (BitVec.ofNat 8 k))

/-- R163: DT as it stands at the start of the tick. -/
def execLdVxDt (x : Reg) (s : State) : Result := finish (s.setV x s.dt)

/-- R164. -/
def execLdDtVx (x : Reg) (s : State) : Result := finish (s.setDt (s.getV x))

/-- R165. -/
def execLdStVx (x : Reg) (s : State) : Result := finish (s.setSt (s.getV x))

end Sys2Proof.Machine
end

