-- ==== Sys2Proof/Syntax.lean ====
section
/-! DEFINITION. The instructions of CORE: one constructor per row of spec/opcode_table.json, the map
of 30_encoding.md R74, in its order. Operands are the fields of R72, already pulled out of the word. -/

namespace Sys2Proof

/-- The 34 instructions (30_encoding.md R74). `x`, `y` are register indices, `nnn` an address
immediate, `kk` a byte immediate, `n` a sprite row count (R72). -/
inductive Instr where
  /-- `00E0` CLS (R151) -/
  | cls
  /-- `00EE` RET (R100) -/
  | ret
  /-- `1nnn` JP nnn (R101) -/
  | jp (nnn : BitVec 12)
  /-- `2nnn` CALL nnn (R102) -/
  | call (nnn : BitVec 12)
  /-- `3xkk` SE Vx, kk (R103) -/
  | seByte (x : Reg) (kk : Byte)
  /-- `4xkk` SNE Vx, kk (R104) -/
  | sneByte (x : Reg) (kk : Byte)
  /-- `5xy0` SE Vx, Vy (R105) -/
  | seReg (x y : Reg)
  /-- `6xkk` LD Vx, kk (R120) -/
  | ldByte (x : Reg) (kk : Byte)
  /-- `7xkk` ADD Vx, kk (R121) -/
  | addByte (x : Reg) (kk : Byte)
  /-- `8xy0` LD Vx, Vy (R122; not in the source, decision D5, log 5) -/
  | ldReg (x y : Reg)
  /-- `8xy1` OR Vx, Vy (R124) -/
  | orReg (x y : Reg)
  /-- `8xy2` AND Vx, Vy (R125) -/
  | andReg (x y : Reg)
  /-- `8xy3` XOR Vx, Vy (R126) -/
  | xorReg (x y : Reg)
  /-- `8xy4` ADD Vx, Vy (R127) -/
  | addReg (x y : Reg)
  /-- `8xy5` SUB Vx, Vy (R128) -/
  | sub (x y : Reg)
  /-- `8xy6` SHR Vx (R129); y is a don't-care field of the word (R77), kept so that the word is not lost -/
  | shr (x y : Reg)
  /-- `8xy7` SUBN Vx, Vy (R130) -/
  | subn (x y : Reg)
  /-- `8xyE` SHL Vx (R131); y as for `shr` -/
  | shl (x y : Reg)
  /-- `9xy0` SNE Vx, Vy (R106) -/
  | sneReg (x y : Reg)
  /-- `Annn` LD I, nnn (R140) -/
  | ldI (nnn : BitVec 12)
  /-- `Bnnn` JP V0, nnn (R107) -/
  | jpV0 (nnn : BitVec 12)
  /-- `Cxkk` RND Vx, kk (R132) -/
  | rnd (x : Reg) (kk : Byte)
  /-- `Dxyn` DRW Vx, Vy, n (R152) -/
  | drw (x y : Reg) (n : BitVec 4)
  /-- `Ex9E` SKP Vx (R160) -/
  | skp (x : Reg)
  /-- `ExA1` SKNP Vx (R161) -/
  | sknp (x : Reg)
  /-- `Fx07` LD Vx, DT (R163) -/
  | ldVxDt (x : Reg)
  /-- `Fx0A` LD Vx, K (R162) -/
  | ldVxK (x : Reg)
  /-- `Fx15` LD DT, Vx (R164) -/
  | ldDtVx (x : Reg)
  /-- `Fx18` LD ST, Vx (R165) -/
  | ldStVx (x : Reg)
  /-- `Fx1E` ADD I, Vx (R141) -/
  | addI (x : Reg)
  /-- `Fx29` LD F, Vx (R142) -/
  | ldF (x : Reg)
  /-- `Fx33` LD B, Vx (R143) -/
  | ldB (x : Reg)
  /-- `Fx55` LD [I], Vx (R144) -/
  | storeRegs (x : Reg)
  /-- `Fx65` LD Vx, [I] (R145) -/
  | loadRegs (x : Reg)
  deriving DecidableEq, Repr

end Sys2Proof
end

