-- ==== Sys2Proof/WellFormed.lean ====
section
/-! DEFINITION. Well-formed instructions: every operand lies in the range 30_encoding.md R72 gives its
field. The operand types of `Instr` are those ranges, so every term of `Instr` is well formed
(`Instr.wellFormed_eq_true`); an ill-formed operand is a number the range checks refuse and no term
of `Instr` can be built from (the tests show it for each check). -/

namespace Sys2Proof

/-- R72: a field `x` or `y` is 0..15. -/
def regOk (r : Nat) : Bool := decide (r ≤ 15)

/-- R72: `nnn` is 0..4095. -/
def addrOk (a : Nat) : Bool := decide (a ≤ 4095)

/-- R72: `kk` is 0..255. -/
def byteOk (k : Nat) : Bool := decide (k ≤ 255)

/-- R72: `n` is 0..15. -/
def rowsOk (n : Nat) : Bool := decide (n ≤ 15)

/-- Every operand of the instruction is in its field's range (R72). -/
def Instr.wellFormed (i : Instr) : Bool :=
  match i with
  | .cls => true
  | .ret => true
  | .jp nnn => addrOk nnn.toNat
  | .call nnn => addrOk nnn.toNat
  | .seByte x kk => regOk x.val && byteOk kk.toNat
  | .sneByte x kk => regOk x.val && byteOk kk.toNat
  | .seReg x y => regOk x.val && regOk y.val
  | .ldByte x kk => regOk x.val && byteOk kk.toNat
  | .addByte x kk => regOk x.val && byteOk kk.toNat
  | .ldReg x y => regOk x.val && regOk y.val
  | .orReg x y => regOk x.val && regOk y.val
  | .andReg x y => regOk x.val && regOk y.val
  | .xorReg x y => regOk x.val && regOk y.val
  | .addReg x y => regOk x.val && regOk y.val
  | .sub x y => regOk x.val && regOk y.val
  | .shr x y => regOk x.val && regOk y.val
  | .subn x y => regOk x.val && regOk y.val
  | .shl x y => regOk x.val && regOk y.val
  | .sneReg x y => regOk x.val && regOk y.val
  | .ldI nnn => addrOk nnn.toNat
  | .jpV0 nnn => addrOk nnn.toNat
  | .rnd x kk => regOk x.val && byteOk kk.toNat
  | .drw x y n => regOk x.val && regOk y.val && rowsOk n.toNat
  | .skp x => regOk x.val
  | .sknp x => regOk x.val
  | .ldVxDt x => regOk x.val
  | .ldVxK x => regOk x.val
  | .ldDtVx x => regOk x.val
  | .ldStVx x => regOk x.val
  | .addI x => regOk x.val
  | .ldF x => regOk x.val
  | .ldB x => regOk x.val
  | .storeRegs x => regOk x.val
  | .loadRegs x => regOk x.val

@[simp] theorem regOk_reg (x : Reg) : regOk x.val = true := by simp [regOk]; omega
@[simp] theorem addrOk_nnn (nnn : BitVec 12) : addrOk nnn.toNat = true := by simp [addrOk]; omega
@[simp] theorem byteOk_kk (kk : Byte) : byteOk kk.toNat = true := by simp [byteOk]; omega
@[simp] theorem rowsOk_n (n : BitVec 4) : rowsOk n.toNat = true := by simp [rowsOk]; omega

/-- The operand types admit exactly the fields' ranges, so nothing ill formed can be written. -/
@[simp] theorem Instr.wellFormed_eq_true (i : Instr) : i.wellFormed = true := by
  cases i <;> simp [Instr.wellFormed]

end Sys2Proof
end

