-- ==== Sys2Proof/Decode.lean ====
section
/-! DEFINITION. Decoding and encoding (30_encoding.md). The opcode map of R74 stands once, as data
(`opcodeMask`, `opcodeMatch`), and both the decoder and the encoder read it: its literal nibbles are
general knowledge, not the source's (D4, G1; log 4), so they can be replaced in one place. -/

namespace Sys2Proof

/-! ## The fields of a word (R71, R72) -/

/-- `op`, the high nibble w[15:12]. -/
def fieldOp (w : Word) : BitVec 4 := w.extractLsb' 12 4

/-- `x`, w[11:8]. -/
def fieldX (w : Word) : Reg := (w.extractLsb' 8 4).toFin

/-- `y`, w[7:4]. -/
def fieldY (w : Word) : Reg := (w.extractLsb' 4 4).toFin

/-- `n`, w[3:0]. -/
def fieldN (w : Word) : BitVec 4 := w.extractLsb' 0 4

/-- `kk`, w[7:0]. -/
def fieldKK (w : Word) : Byte := w.extractLsb' 0 8

/-- `nnn`, w[11:0]. -/
def fieldNNN (w : Word) : BitVec 12 := w.extractLsb' 0 12

/-! ## The opcode map (R74) -/

/-- The rows of the opcode map, one name each; the operands are not in it. -/
inductive Opcode where
  | cls | ret | jp | call | seByte | sneByte | seReg | ldByte | addByte
  | ldReg | orReg | andReg | xorReg | addReg | sub | shr | subn | shl | sneReg
  | ldI | jpV0 | rnd | drw | skp | sknp | ldVxDt | ldVxK | ldDtVx | ldStVx
  | addI | ldF | ldB | storeRegs | loadRegs
  deriving DecidableEq, Repr

/-- The rows in the table's order. They are pairwise disjoint, so the order does not matter (R74). -/
def allOpcodes : List Opcode :=
  [.cls, .ret, .jp, .call, .seByte, .sneByte, .seReg, .ldByte, .addByte] ++
  [.ldReg, .orReg, .andReg, .xorReg, .addReg, .sub, .shr, .subn, .shl, .sneReg] ++
  [.ldI, .jpV0, .rnd, .drw, .skp, .sknp, .ldVxDt, .ldVxK, .ldDtVx, .ldStVx] ++
  [.addI, .ldF, .ldB, .storeRegs, .loadRegs]

/-- Column `mask` of R74. -/
def opcodeMask (o : Opcode) : Word :=
  match o with
  | .cls => 0xFFFF
  | .ret => 0xFFFF
  | .jp => 0xF000
  | .call => 0xF000
  | .seByte => 0xF000
  | .sneByte => 0xF000
  | .seReg => 0xF00F
  | .ldByte => 0xF000
  | .addByte => 0xF000
  | .ldReg => 0xF00F
  | .orReg => 0xF00F
  | .andReg => 0xF00F
  | .xorReg => 0xF00F
  | .addReg => 0xF00F
  | .sub => 0xF00F
  | .shr => 0xF00F
  | .subn => 0xF00F
  | .shl => 0xF00F
  | .sneReg => 0xF00F
  | .ldI => 0xF000
  | .jpV0 => 0xF000
  | .rnd => 0xF000
  | .drw => 0xF000
  | .skp => 0xF0FF
  | .sknp => 0xF0FF
  | .ldVxDt => 0xF0FF
  | .ldVxK => 0xF0FF
  | .ldDtVx => 0xF0FF
  | .ldStVx => 0xF0FF
  | .addI => 0xF0FF
  | .ldF => 0xF0FF
  | .ldB => 0xF0FF
  | .storeRegs => 0xF0FF
  | .loadRegs => 0xF0FF

/-- Column `match` of R74. -/
def opcodeMatch (o : Opcode) : Word :=
  match o with
  | .cls => 0x00E0
  | .ret => 0x00EE
  | .jp => 0x1000
  | .call => 0x2000
  | .seByte => 0x3000
  | .sneByte => 0x4000
  | .seReg => 0x5000
  | .ldByte => 0x6000
  | .addByte => 0x7000
  | .ldReg => 0x8000
  | .orReg => 0x8001
  | .andReg => 0x8002
  | .xorReg => 0x8003
  | .addReg => 0x8004
  | .sub => 0x8005
  | .shr => 0x8006
  | .subn => 0x8007
  | .shl => 0x800E
  | .sneReg => 0x9000
  | .ldI => 0xA000
  | .jpV0 => 0xB000
  | .rnd => 0xC000
  | .drw => 0xD000
  | .skp => 0xE09E
  | .sknp => 0xE0A1
  | .ldVxDt => 0xF007
  | .ldVxK => 0xF00A
  | .ldDtVx => 0xF015
  | .ldStVx => 0xF018
  | .addI => 0xF01E
  | .ldF => 0xF029
  | .ldB => 0xF033
  | .storeRegs => 0xF055
  | .loadRegs => 0xF065

/-- A word selects a row when `w & mask = match` (R74). -/
def opcodeSelects (o : Opcode) (w : Word) : Bool := w &&& opcodeMask o == opcodeMatch o

/-- The instruction of a selected row, its operands read from the word by the row's format (R71, R72). -/
def opcodeBuild (o : Opcode) (w : Word) : Instr :=
  match o with
  | .cls => .cls
  | .ret => .ret
  | .jp => .jp (fieldNNN w)
  | .call => .call (fieldNNN w)
  | .seByte => .seByte (fieldX w) (fieldKK w)
  | .sneByte => .sneByte (fieldX w) (fieldKK w)
  | .seReg => .seReg (fieldX w) (fieldY w)
  | .ldByte => .ldByte (fieldX w) (fieldKK w)
  | .addByte => .addByte (fieldX w) (fieldKK w)
  | .ldReg => .ldReg (fieldX w) (fieldY w)
  | .orReg => .orReg (fieldX w) (fieldY w)
  | .andReg => .andReg (fieldX w) (fieldY w)
  | .xorReg => .xorReg (fieldX w) (fieldY w)
  | .addReg => .addReg (fieldX w) (fieldY w)
  | .sub => .sub (fieldX w) (fieldY w)
  | .shr => .shr (fieldX w) (fieldY w)
  | .subn => .subn (fieldX w) (fieldY w)
  | .shl => .shl (fieldX w) (fieldY w)
  | .sneReg => .sneReg (fieldX w) (fieldY w)
  | .ldI => .ldI (fieldNNN w)
  | .jpV0 => .jpV0 (fieldNNN w)
  | .rnd => .rnd (fieldX w) (fieldKK w)
  | .drw => .drw (fieldX w) (fieldY w) (fieldN w)
  | .skp => .skp (fieldX w)
  | .sknp => .sknp (fieldX w)
  | .ldVxDt => .ldVxDt (fieldX w)
  | .ldVxK => .ldVxK (fieldX w)
  | .ldDtVx => .ldDtVx (fieldX w)
  | .ldStVx => .ldStVx (fieldX w)
  | .addI => .addI (fieldX w)
  | .ldF => .ldF (fieldX w)
  | .ldB => .ldB (fieldX w)
  | .storeRegs => .storeRegs (fieldX w)
  | .loadRegs => .loadRegs (fieldX w)

/-! ## Decoding -/

/-- R74, R75: the instruction a word selects, `none` where no row matches (UnknownOpcode, R76).
Total on all 65536 words; reads no state. -/
def decodeWord (w : Word) : Option Instr :=
  (allOpcodes.find? (fun o => opcodeSelects o w)).map (fun o => opcodeBuild o w)

/-- Why bytes hold no instruction. -/
inductive DecodeError where
  /-- Fewer than two bytes: not a whole instruction word (R70). -/
  | truncated
  /-- No row of the opcode map matches the word (R76). -/
  | unknownOpcode (w : Word)
  deriving DecidableEq, Repr

/-- R53: the word of two bytes, the one at the lower address high. -/
def wordOfBytes (hi lo : Byte) : Word := hi ++ lo

/-- The instruction at the head of a list of bytes and the bytes after it (R70: always two bytes,
big-endian); by name why there is none. -/
def decode (bytes : List Byte) : Except DecodeError (Instr × List Byte) :=
  match bytes with
  | hi :: lo :: rest =>
    match decodeWord (wordOfBytes hi lo) with
    | some i => .ok (i, rest)
    | none => .error (.unknownOpcode (wordOfBytes hi lo))
  | _ => .error .truncated

/-! ## The decode procedure of R75, as the spec writes it

The decoder above is the table of R74. This is the case procedure of R75; that the two agree on every
word is a statement about the model (Obligations.lean). -/

/-- R75, `op = 0x8`. -/
def procedure8 (w : Word) : Option Instr :=
  match (fieldN w).toNat with
  | 0 => some (.ldReg (fieldX w) (fieldY w))
  | 1 => some (.orReg (fieldX w) (fieldY w))
  | 2 => some (.andReg (fieldX w) (fieldY w))
  | 3 => some (.xorReg (fieldX w) (fieldY w))
  | 4 => some (.addReg (fieldX w) (fieldY w))
  | 5 => some (.sub (fieldX w) (fieldY w))
  | 6 => some (.shr (fieldX w) (fieldY w))
  | 7 => some (.subn (fieldX w) (fieldY w))
  | 0xE => some (.shl (fieldX w) (fieldY w))
  | _ => none

/-- R75, `op = 0xF`. -/
def procedureF (w : Word) : Option Instr :=
  match (fieldKK w).toNat with
  | 0x07 => some (.ldVxDt (fieldX w))
  | 0x0A => some (.ldVxK (fieldX w))
  | 0x15 => some (.ldDtVx (fieldX w))
  | 0x18 => some (.ldStVx (fieldX w))
  | 0x1E => some (.addI (fieldX w))
  | 0x29 => some (.ldF (fieldX w))
  | 0x33 => some (.ldB (fieldX w))
  | 0x55 => some (.storeRegs (fieldX w))
  | 0x65 => some (.loadRegs (fieldX w))
  | _ => none

/-- R75: given the fetched word, compute `op` and select. -/
def decodeProcedure (w : Word) : Option Instr :=
  match (fieldOp w).toNat with
  | 0x0 => if w = 0x00E0 then some .cls else if w = 0x00EE then some .ret else none
  | 0x1 => some (.jp (fieldNNN w))
  | 0x2 => some (.call (fieldNNN w))
  | 0x3 => some (.seByte (fieldX w) (fieldKK w))
  | 0x4 => some (.sneByte (fieldX w) (fieldKK w))
  | 0x5 => if fieldN w = 0 then some (.seReg (fieldX w) (fieldY w)) else none
  | 0x6 => some (.ldByte (fieldX w) (fieldKK w))
  | 0x7 => some (.addByte (fieldX w) (fieldKK w))
  | 0x8 => procedure8 w
  | 0x9 => if fieldN w = 0 then some (.sneReg (fieldX w) (fieldY w)) else none
  | 0xA => some (.ldI (fieldNNN w))
  | 0xB => some (.jpV0 (fieldNNN w))
  | 0xC => some (.rnd (fieldX w) (fieldKK w))
  | 0xD => some (.drw (fieldX w) (fieldY w) (fieldN w))
  | 0xE =>
    if fieldKK w = 0x9E then some (.skp (fieldX w))
    else if fieldKK w = 0xA1 then some (.sknp (fieldX w)) else none
  | _ => procedureF w

/-! ## Encoding -/

/-- The row an instruction belongs to. -/
def opcodeOf (i : Instr) : Opcode :=
  match i with
  | .cls => .cls
  | .ret => .ret
  | .jp _ => .jp
  | .call _ => .call
  | .seByte _ _ => .seByte
  | .sneByte _ _ => .sneByte
  | .seReg _ _ => .seReg
  | .ldByte _ _ => .ldByte
  | .addByte _ _ => .addByte
  | .ldReg _ _ => .ldReg
  | .orReg _ _ => .orReg
  | .andReg _ _ => .andReg
  | .xorReg _ _ => .xorReg
  | .addReg _ _ => .addReg
  | .sub _ _ => .sub
  | .shr _ _ => .shr
  | .subn _ _ => .subn
  | .shl _ _ => .shl
  | .sneReg _ _ => .sneReg
  | .ldI _ => .ldI
  | .jpV0 _ => .jpV0
  | .rnd _ _ => .rnd
  | .drw _ _ _ => .drw
  | .skp _ => .skp
  | .sknp _ => .sknp
  | .ldVxDt _ => .ldVxDt
  | .ldVxK _ => .ldVxK
  | .ldDtVx _ => .ldDtVx
  | .ldStVx _ => .ldStVx
  | .addI _ => .addI
  | .ldF _ => .ldF
  | .ldB _ => .ldB
  | .storeRegs _ => .storeRegs
  | .loadRegs _ => .loadRegs

/-- A register index at w[11:8]. -/
def packX (x : Reg) : Word := BitVec.ofNat 16 x.val <<< 8

/-- A register index at w[7:4]. -/
def packY (y : Reg) : Word := BitVec.ofNat 16 y.val <<< 4

/-- The operand bits of an instruction's word, by its format (R71, R72). -/
def operandBits (i : Instr) : Word :=
  match i with
  | .cls => 0
  | .ret => 0
  | .jp nnn => nnn.setWidth 16
  | .call nnn => nnn.setWidth 16
  | .seByte x kk => packX x ||| kk.setWidth 16
  | .sneByte x kk => packX x ||| kk.setWidth 16
  | .seReg x y => packX x ||| packY y
  | .ldByte x kk => packX x ||| kk.setWidth 16
  | .addByte x kk => packX x ||| kk.setWidth 16
  | .ldReg x y => packX x ||| packY y
  | .orReg x y => packX x ||| packY y
  | .andReg x y => packX x ||| packY y
  | .xorReg x y => packX x ||| packY y
  | .addReg x y => packX x ||| packY y
  | .sub x y => packX x ||| packY y
  | .shr x y => packX x ||| packY y
  | .subn x y => packX x ||| packY y
  | .shl x y => packX x ||| packY y
  | .sneReg x y => packX x ||| packY y
  | .ldI nnn => nnn.setWidth 16
  | .jpV0 nnn => nnn.setWidth 16
  | .rnd x kk => packX x ||| kk.setWidth 16
  | .drw x y n => packX x ||| packY y ||| n.setWidth 16
  | .skp x => packX x
  | .sknp x => packX x
  | .ldVxDt x => packX x
  | .ldVxK x => packX x
  | .ldDtVx x => packX x
  | .ldStVx x => packX x
  | .addI x => packX x
  | .ldF x => packX x
  | .ldB x => packX x
  | .storeRegs x => packX x
  | .loadRegs x => packX x

/-- The word of an instruction: its row's literal nibbles and its operand fields. -/
def encode (i : Instr) : Word := opcodeMatch (opcodeOf i) ||| operandBits i

/-- R53: the high byte of a word, stored at the lower address. -/
def highByte (w : Word) : Byte := w.extractLsb' 8 8

/-- R53: the low byte of a word, stored at the higher address. -/
def lowByte (w : Word) : Byte := w.extractLsb' 0 8

/-- The bytes of an instruction as memory holds them (R53, R70). -/
def encodeBytes (i : Instr) : List Byte := [highByte (encode i), lowByte (encode i)]

/-! ## Words numbered as spec/opcode_table.json numbers them -/

/-- The instruction word of a table word: its low `nbits` bits (every row has 16), the rest 0. -/
def tableWord (nbits w : Nat) : Word := BitVec.ofNat 16 (w % 2 ^ nbits)

/-- The instruction the decoder reads from a table word, laid out in memory order (R53). -/
def decodeTableWord (nbits w : Nat) : Option Instr :=
  match decode [highByte (tableWord nbits w), lowByte (tableWord nbits w)] with
  | .ok (i, _) => some i
  | .error _ => none

end Sys2Proof
end

