-- ==== Sys2Proof/Machine/Fetch.lean ====
section
/-! DEFINITION. Fetching an instruction word (40_step_cycle.md R91, 20_memory.md R53). -/

namespace Sys2Proof.Machine

/-- R91: the big-endian word at PC and PC + 1; `none` if PC > 4094 (FetchOutOfBounds). No alignment
test (R55). Fetch changes no state. -/
def fetchWord (s : State) : Option Word :=
  if 4094 < s.pc.toNat then none
  else some (wordOfBytes (s.mem.read s.pc.toNat) (s.mem.read (s.pc.toNat + 1)))

/-- R91, R92: the instruction at PC, where there is one. -/
def fetchInstr (s : State) : Option Instr := (fetchWord s).bind decodeWord

/-- A state that can fetch: running, with PC at most 4094. A state that cannot is put at the entry point
512 (R203) and its fault latch cleared (log 14). -/
def fetchable (s : State) : State :=
  { s with
    pc := if 4094 < s.pc.toNat then 512 else s.pc
    err := if s.err.code = .noFault then s.err else { code := .noFault, info := 0 } }

/-- Store an instruction word where it is fetched from: the high byte at PC, the low at PC + 1 (R53). -/
def placeWord (s : State) (w : Word) : State :=
  s.setMem (s.mem.writeBytes s.pc.toNat [highByte w, lowByte w])

end Sys2Proof.Machine
end

