-- ==== Sys2Proof/Machine/Step.lean ====
section
/-! DEFINITION. The tick, the one transition of CORE (40_step_cycle.md R90). Its inputs KEYS and RND
are `State.keys`, which the host may set between ticks (R30), and the free value `State.rndByte` (R34). -/

namespace Sys2Proof.Machine

/-- R90: a halted core changes nothing (R96); otherwise fetch, decode, execute, in this order (R179), and
after a step without a fault the timer countdown (R95). -/
def step (s : State) : Host.Outcome State Fault Refusal :=
  if s.err.code = .noFault then
    match fetchWord s with
    | none => raiseFault .fetchOutOfBounds 0 s
    | some w =>
      match decodeWord w with
      | none => raiseFault .unknownOpcode w s
      | some i => endTick (exec i s)
  else .next s

/-- The state with a table word stored where the next step fetches, so that the next step runs exactly
it (log 7 says how a program comes to run otherwise). -/
def State.withFetchWord (s : State) (nbits w : Nat) : State := placeWord (fetchable s) (tableWord nbits w)

end Sys2Proof.Machine
end

