-- ==== Sys2Proof/Machine/HostMoves.lean ====
section
/-! DEFINITION. The host (70_reset_and_hazards.md R210 to R216): everything outside CORE that touches
its state, between ticks and never inside one. -/

namespace Sys2Proof.Machine

/-- Where a run stands, for the load (R202, R211). -/
inductive Stage where
  /-- reset, nothing loaded and no tick yet -/
  | fresh
  /-- the image is loaded, no tick yet -/
  | loaded
  /-- a tick has happened -/
  | ticked
  deriving DecidableEq, Repr

/-- CORE, the argument FONT, fixed for the session (R8), and where the run stands, because a program is
loaded once and before the first tick (R211; log 8). -/
structure Session where
  core : State
  font : Font
  stage : Stage
  deriving DecidableEq, Repr

/-- R36: the state after reset with the argument FONT at MEM[0] to MEM[79]. With the default FONT it is
`State.reset`. -/
def State.resetWith (f : Font) : State := State.reset.setMem (State.reset.mem.writeBytes 0 f.toList)

/-- The machine of the host's interface under the argument FONT; `Sys2Proof.core` is it with the
default. -/
def coreWith (f : Font) : Host.Core where
  State := State
  Fault := Fault
  Refusal := Refusal
  step := step
  reset := State.resetWith f

/-- A host that has just reset the core (R200). -/
def Session.initial (f : Font) : Session := { core := State.resetWith f, font := f, stage := .fresh }

/-- The moves of R210's table. RND is supplied by the free value `Config.rnd` (R214, log 2). -/
inductive HostMove where
  /-- R200 -/
  | reset
  /-- R211: the program image -/
  | load (image : List Byte)
  /-- R212: any 16-bit value -/
  | setKeys (k : BitVec 16)
  /-- R213: REDRAW <- 0 -/
  | clearRedraw
  /-- R213: looking at any state has no effect -/
  | read
  /-- R215 -/
  | tick
  deriving DecidableEq, Repr

/-- R200: every piece of state at its reset value, whatever it was, the halted state included; the
bytes RND go on where they were (log 2). -/
def resetCore (f : Font) (s : State) : State := { State.resetWith f with rndDraws := s.rndDraws }

/-- R211: the image copied verbatim to addresses from 512 on. -/
def loadImage (s : State) (image : List Byte) : State := s.setMem (s.mem.writeBytes 512 image)

/-- R212. -/
def State.setKeys (s : State) (k : BitVec 16) : State := { s with keys := k }

/-- R213. -/
def State.clearRedraw (s : State) : State := { s with redraw := false }

/-- One move of the host. An image longer than 3584 bytes is refused (ProgramTooLarge, R183, R211). A
load happens once, before the first tick (R211, D18): one after the first tick (R61) and a second one
have no meaning in the spec and stop by name. -/
def Session.move (m : HostMove) (h : Session) : Host.Outcome Session Fault Refusal :=
  match m with
  | .reset => .next { h with core := resetCore h.font h.core, stage := .fresh }
  | .load image =>
    if 3584 < image.length then .refused .programTooLarge
    else
      match h.stage with
      | .fresh => .next { h with core := loadImage h.core image, stage := .loaded }
      | .loaded => .fault .loadTwice
      | .ticked => .fault .loadAfterFirstTick
  | .setKeys k => .next { h with core := h.core.setKeys k }
  | .clearRedraw => .next { h with core := h.core.clearRedraw }
  | .read => .next h
  | .tick =>
    match step h.core with
    | .next t => .next { h with core := t, stage := .ticked }
    | .fault f => .fault f
    | .refused q => .refused q

/-- A sequence of moves, stopping at the first that is refused. -/
def Session.moves (ms : List HostMove) (h : Session) : Host.Outcome Session Fault Refusal :=
  match ms with
  | [] => .next h
  | m :: rest =>
    match Session.move m h with
    | .next g => Session.moves rest g
    | .fault f => .fault f
    | .refused q => .refused q

end Sys2Proof.Machine
end

