-- ==== Sys2Proof/Safety.lean ====
section
/-! DEFINITION. What claims about CORE are stated in: running and halted, the invariants, the fault table
of 60_exceptions.md R170, and who writes what (10_state.md R21, R37). -/

namespace Sys2Proof.Machine

/-! ## Running, halted, ended -/

/-- No fault has happened (R33). -/
abbrev State.running (s : State) : Prop := s.err.code = .noFault

/-- A fault is latched (R96). -/
abbrev State.halted (s : State) : Prop := s.err.code ≠ .noFault

/-- The model's own predicate for "the program has ended" (R215, D21 leaves it open; DESIGN CHOICE,
log 18): running, and PC holds the address of a `JP` to itself. -/
abbrev State.parked (s : State) : Prop :=
  s.running ∧ ∃ nnn, fetchInstr s = some (.jp nnn) ∧ s.pc = zext12 nnn

/-- A safe run of `k` ticks: it ends in a state with no fault latched. As a fault is sticky (R33), no
tick of the run has raised one. -/
abbrev SafeRun (k : Nat) (s : State) : Prop := ∃ t : State, Sys2Proof.core.run k s = .next t ∧ t.running

/-! ## Invariants -/

/-- What every tick and every host move keep: memory in its canonical form, PC at most 0x10FE (R23),
every live stack entry an address `CALL` can push, 2 to 4096 (R102), and ERR.info zero unless the code
is UnknownOpcode (R178). SP is at most 16 by its type (R25). -/
abbrev State.Inv (s : State) : Prop :=
  s.mem.wf = true ∧
  s.pc.toNat ≤ 0x10FE ∧
  (∀ j : Fin 16, j.val < s.sp.val → 2 ≤ s.stack[j.val].toNat ∧ s.stack[j.val].toNat ≤ 4096) ∧
  (s.err.code ≠ .unknownOpcode → s.err.info = 0)

/-- R170, the execute faults: the fault each instruction raises in a state, and none otherwise. -/
def executeFault (i : Instr) (s : State) : ErrCode :=
  match i with
  | .cls => .noFault
  | .ret => if s.sp.val = 0 then .stackUnderflow else .noFault
  | .jp _ => .noFault
  | .call _ => if s.sp.val = 16 then .stackOverflow else .noFault
  | .seByte _ _ => .noFault
  | .sneByte _ _ => .noFault
  | .seReg _ _ => .noFault
  | .ldByte _ _ => .noFault
  | .addByte _ _ => .noFault
  | .ldReg _ _ => .noFault
  | .orReg _ _ => .noFault
  | .andReg _ _ => .noFault
  | .xorReg _ _ => .noFault
  | .addReg _ _ => .noFault
  | .sub _ _ => .noFault
  | .shr _ _ => .noFault
  | .subn _ _ => .noFault
  | .shl _ _ => .noFault
  | .sneReg _ _ => .noFault
  | .ldI _ => .noFault
  | .jpV0 _ => .noFault
  | .rnd _ _ => .noFault
  | .drw _ _ n => if 0 < n.toNat ∧ 4095 < s.i.toNat + n.toNat - 1 then .dataOutOfBounds else .noFault
  | .skp x => if 15 < s.v[x.val].toNat then .keyIndexOutOfRange else .noFault
  | .sknp x => if 15 < s.v[x.val].toNat then .keyIndexOutOfRange else .noFault
  | .ldVxDt _ => .noFault
  | .ldVxK _ => .noFault
  | .ldDtVx _ => .noFault
  | .ldStVx _ => .noFault
  | .addI _ => .noFault
  | .ldF _ => .noFault
  | .ldB _ => if 4095 < s.i.toNat + 2 then .dataOutOfBounds else .noFault
  | .storeRegs x => if 4095 < s.i.toNat + x.val then .dataOutOfBounds else .noFault
  | .loadRegs x => if 4095 < s.i.toNat + x.val then .dataOutOfBounds else .noFault

/-- A latched fault is the true one: the fetch at PC is out of bounds, or ERR.info is the illegal word
at PC, or the instruction at PC raises this very fault in this state (R171 to R177, R179). It can be
stated because faults are precise: nothing else changed when the fault was raised (R176). -/
def State.FaultExplained (s : State) : Prop :=
  s.running ∨
  (s.err.code = .fetchOutOfBounds ∧ fetchWord s = none) ∨
  (s.err.code = .unknownOpcode ∧ fetchWord s = some s.err.info ∧ decodeWord s.err.info = none) ∨
  (∃ i, fetchInstr s = some i ∧ executeFault i s = s.err.code ∧ s.halted)

/-- What every move of the host keeps: the core's invariant, a latched fault that is the true one, no
fault before the first tick, and memory at its reset contents until the load. -/
def Session.Inv (h : Session) : Prop :=
  h.core.Inv ∧ h.core.FaultExplained ∧ (h.stage ≠ .ticked → h.core.running) ∧
  (h.stage = .fresh → h.core.mem = (State.resetWith h.font).mem)

/-! ## Who writes what (R21, R37) -/

/-- The general registers an instruction may write: its destination V[x], VF for the seven flag writers
of R21, V[0] to V[x] for `LD Vx, [I]`. -/
def writesReg (i : Instr) (r : Reg) : Prop :=
  match i with
  | .cls => False
  | .ret => False
  | .jp _ => False
  | .call _ => False
  | .seByte _ _ => False
  | .sneByte _ _ => False
  | .seReg _ _ => False
  | .ldByte x _ => r = x
  | .addByte x _ => r = x
  | .ldReg x _ => r = x
  | .orReg x _ => r = x
  | .andReg x _ => r = x
  | .xorReg x _ => r = x
  | .addReg x _ => r = x ∨ r = 15
  | .sub x _ => r = x ∨ r = 15
  | .shr x _ => r = x ∨ r = 15
  | .subn x _ => r = x ∨ r = 15
  | .shl x _ => r = x ∨ r = 15
  | .sneReg _ _ => False
  | .ldI _ => False
  | .jpV0 _ => False
  | .rnd x _ => r = x
  | .drw _ _ _ => r = 15
  | .skp _ => False
  | .sknp _ => False
  | .ldVxDt x => r = x
  | .ldVxK x => r = x
  | .ldDtVx _ => False
  | .ldStVx _ => False
  | .addI _ => r = 15
  | .ldF _ => False
  | .ldB _ => False
  | .storeRegs _ => False
  | .loadRegs x => r ≤ x

/-- The addresses an instruction stores to (R63), by the address function its meaning uses. -/
def storesTo (i : Instr) (s : State) (a : Nat) : Prop :=
  match i with
  | .ldB _ => a = dataAddr s 0 ∨ a = dataAddr s 1 ∨ a = dataAddr s 2
  | .storeRegs x => dataAddr s 0 ≤ a ∧ a ≤ dataAddr s x.val
  | .cls | .ret | .jp _ | .call _ | .seByte _ _ | .sneByte _ _ | .seReg _ _ | .ldByte _ _
  | .addByte _ _ | .ldReg _ _ | .orReg _ _ | .andReg _ _ | .xorReg _ _ | .addReg _ _ | .sub _ _
  | .shr _ _ | .subn _ _ | .shl _ _ | .sneReg _ _ | .ldI _ | .jpV0 _ | .rnd _ _ | .drw _ _ _
  | .skp _ | .sknp _ | .ldVxDt _ | .ldVxK _ | .ldDtVx _ | .ldStVx _ | .addI _ | .ldF _
  | .loadRegs _ => False

/-- Two states that agree on everything but the general registers, I and PC; memory is compared byte
by byte. For the frames of instructions that only compute. -/
def State.sameBeyondRegs (s t : State) : Prop :=
  t.stack = s.stack ∧ t.sp = s.sp ∧ (∀ a, t.mem.read a = s.mem.read a) ∧ t.dt = s.dt ∧ t.st = s.st ∧
  t.keys = s.keys ∧ t.fb = s.fb ∧ t.redraw = s.redraw ∧ t.err = s.err

/-! ## Sprites (R150, R153, R154) -/

/-- The number h(c) of R154: how many set bits of the n-row sprite at I, drawn at column V[x], row V[y],
have the cell (row, col) as their clamped target; p runs over the pairs (row of the sprite, pixel). -/
def spriteHits (s : State) (x y : Reg) (n : BitVec 4) (row : Fin 32) (col : Fin 64) : Nat :=
  ((List.range n.toNat).flatMap (fun r => (List.range 8).map (fun j => (r, j)))).countP
    (fun p => (s.mem.read (s.i.toNat + p.1)).getLsbD (7 - p.2) &&
      min (s.v[y.val].toNat + p.1) 31 == row.val && min (s.v[x.val].toNat + p.2) 63 == col.val)

/-- Two states that agree on everything but call-stack entries no longer in use, those at SP and above
(R24). -/
def State.sameLiveStack (s t : State) : Prop :=
  t.sp = s.sp ∧ (∀ j : Fin 16, j.val < s.sp.val → t.stack[j.val] = s.stack[j.val]) ∧
  t = { s with stack := t.stack }

end Sys2Proof.Machine
end

