-- ==== Sys2Proof/Certificates/Slice0/Obligations.lean ====
section
/-! DEFINITION. The statements about CORE, from the spec's numbered rules. None is about a program. Where one rests on
a decision of the spec's own (D<n> of 92_eei_decisions.md) or on a choice of the model, its docstring says so and names
the decision and the log entry. -/

open Sys2Proof Sys2Proof.Machine

/-! ## Reset -/

/-- R36, R27, R8: for every FONT reset leaves every piece of state at the table's value; State.reset is
reset with the default FONT. The values of I, DT, ST, KEYS, FB and REDRAW are the spec's decision D11
(log 9), ERR is D3, FONT as an argument with a default is D7 (log 3; the statement names the default, not
its bytes). -/
def Obligations.ResetStateIsTheTable : Prop :=
  State.reset = State.resetWith defaultFont ∧
  ∀ (f : Font) (s : State), s = State.resetWith f →
    (∀ r : Reg, s.v[r.val] = 0) ∧ s.i = 0 ∧ s.pc = 512 ∧
    (∀ j : Fin 16, s.stack[j.val] = 0) ∧ s.sp.val = 0 ∧
    (∀ a : Fin 80, s.mem.read a.val = f[a.val]) ∧
    (∀ a, 80 ≤ a → a ≤ 4095 → s.mem.read a = 0) ∧
    s.dt = 0 ∧ s.st = 0 ∧ s.keys = 0 ∧
    (∀ r c, fbGet s.fb r c = false) ∧ s.redraw = false ∧
    s.err.code = .noFault ∧ s.err.info = 0

/-- The state after reset, with every FONT, meets the invariants the other statements keep (not only runs
from it are meant: see StepKeepsInvariant). -/
def Obligations.ResetMeetsInvariants : Prop :=
  State.reset.Inv ∧ State.reset.FaultExplained ∧
  ∀ f : Font, (State.resetWith f).Inv ∧ (State.resetWith f).FaultExplained ∧ (Session.initial f).Inv

/-! ## Encoding (30_encoding.md; the literal nibbles are D4, G1, log 4) -/

/-- R70 to R75: decoding the bytes of any well-formed instruction gives it back, with the bytes after it
left over. -/
def Obligations.DecodeOfEncode : Prop :=
  ∀ (i : Instr) (rest : List Byte), i.wellFormed = true →
    decodeWord (encode i) = some i ∧ decode (encodeBytes i ++ rest) = .ok (i, rest)

/-- Every legal word is the encoding of what it decodes to: no bit of a legal word is dropped. -/
def Obligations.EncodeOfDecode : Prop :=
  ∀ (w : Word) (i : Instr), decodeWord w = some i → encode i = w

/-- R74: the rows are pairwise disjoint: a word selects at most one. -/
def Obligations.OpcodeRowsDisjoint : Prop :=
  ∀ (w : Word) (o p : Opcode), opcodeSelects o w = true → opcodeSelects p w = true → o = p

/-- R74, R75: the decoder that reads the mask and match table and the case procedure of R75 agree on
every word. -/
def Obligations.TableDecoderIsTheProcedure : Prop :=
  ∀ w : Word, decodeWord w = decodeProcedure w

/-- R76 (with the strict matching of decision D6): the illegal words are exactly the six families. -/
def Obligations.IllegalWordsExactly : Prop :=
  ∀ w : Word, decodeWord w = none ↔
    (w.toNat / 4096 = 0 ∧ w ≠ 0x00E0 ∧ w ≠ 0x00EE) ∨
    (w.toNat / 4096 = 5 ∧ w.toNat % 16 ≠ 0) ∨
    (w.toNat / 4096 = 8 ∧ w.toNat % 16 ∈ [0x8, 0x9, 0xA, 0xB, 0xC, 0xD, 0xF]) ∨
    (w.toNat / 4096 = 9 ∧ w.toNat % 16 ≠ 0) ∨
    (w.toNat / 4096 = 14 ∧ w.toNat % 256 ∉ [0x9E, 0xA1]) ∨
    (w.toNat / 4096 = 15 ∧
      w.toNat % 256 ∉ [0x07, 0x0A, 0x15, 0x18, 0x1E, 0x29, 0x33, 0x55, 0x65])

/-- Words written out from R74, one or more of each family, decode to the instruction they stand for. -/
def Obligations.SampleWordsDecode : Prop :=
  decodeWord 0x00E0 = some .cls ∧ decodeWord 0x00EE = some .ret ∧
  decodeWord 0x1234 = some (.jp 0x234) ∧ decodeWord 0x332A = some (.seByte 3 0x2A) ∧
  decodeWord 0x9120 = some (.sneReg 1 2) ∧ decodeWord 0x81F4 = some (.addReg 1 15) ∧
  decodeWord 0xCFF0 = some (.rnd 15 0xF0) ∧ decodeWord 0xD12E = some (.drw 1 2 14) ∧
  decodeWord 0xE2A1 = some (.sknp 2) ∧ decodeWord 0xF40A = some (.ldVxK 4) ∧
  decodeWord 0xFF65 = some (.loadRegs 15) ∧ decodeWord 0x8128 = none

/-! ## The tick (40_step_cycle.md) -/

/-- R91, R53: the word fetched is MEM[PC] high, MEM[PC+1] low, for every PC up to 4094, odd or even; above that the
step raises FetchOutOfBounds and no register but ERR changes. -/
def Obligations.FetchIsBigEndianOrFaults : Prop :=
  ∀ s : State,
    (s.pc.toNat ≤ 4094 → ∃ w, fetchWord s = some w ∧
      w.toNat = 256 * (s.mem.read s.pc.toNat).toNat + (s.mem.read (s.pc.toNat + 1)).toNat) ∧
    (4094 < s.pc.toNat → s.running →
      step s = .next { s with err := { code := .fetchOutOfBounds, info := 0 } })

/-- R92, R172: a running step whose word matches no row raises UnknownOpcode(w): ERR.info is the word, PC
stays at it, nothing else changes. -/
def Obligations.IllegalWordRaisesUnknownOpcode : Prop :=
  ∀ (s : State) (w : Word), s.running → fetchWord s = some w → decodeWord w = none →
    step s = .next { s with err := { code := .unknownOpcode, info := w } }

/-- R90, R93: when the two bytes at PC decode to an instruction, a running step is that instruction's
meaning and then, unless it raised a fault, both timers counted down by one toward 0. -/
def Obligations.StepRunsTheDecodedInstruction : Prop :=
  ∀ (s t : State) (i : Instr) (rest : List Byte),
    s.running → s.pc.toNat ≤ 4094 → i.wellFormed = true →
    decode (s.mem.read s.pc.toNat :: s.mem.read (s.pc.toNat + 1) :: rest) = .ok (i, rest) →
    exec i s = .next t →
    step s = .next (if t.running then
      { t with dt := if t.dt = 0 then 0 else t.dt - 1, st := if t.st = 0 then 0 else t.st - 1 } else t)

/-- R95, R166 (with the spec's decisions D14 and D17: once per successful tick, a waiting `LD Vx, K`
included): after a tick without a fault each timer is one less than the instruction left it, floored at
0, where the instruction leaves it as it was but for `LD DT, Vx` and `LD ST, Vx`; a tick that faults leaves
both. -/
def Obligations.TimersCountDownOncePerTick : Prop :=
  ∀ (s t : State) (i : Instr), s.running → fetchInstr s = some i → step s = .next t →
    (t.running →
      t.dt.toNat = (match i with
        | .ldDtVx x => s.v[x.val].toNat
        | _ => s.dt.toNat) - 1 ∧
      t.st.toNat = (match i with
        | .ldStVx x => s.v[x.val].toNat
        | _ => s.st.toNat) - 1) ∧
    (t.halted → t.dt = s.dt ∧ t.st = s.st)

/-- R94: PC after each instruction that does not fault; a taken skip depends on the condition alone, not
on the skipped word; a fault leaves PC. -/
def Obligations.ProgramCounterTable : Prop :=
  ∀ (i : Instr) (s t : State), s.running → exec i s = .next t →
    (t.halted → t.pc = s.pc) ∧
    (t.running → match i with
      | .jp nnn => t.pc.toNat = nnn.toNat
      | .call nnn => t.pc.toNat = nnn.toNat
      | .jpV0 nnn => t.pc.toNat = s.v[0].toNat + nnn.toNat
      | .ret => ∃ j : Fin 16, s.sp.val = j.val + 1 ∧ t.pc = s.stack[j.val]
      | .seByte x kk => t.pc = if s.v[x.val] = kk then s.pc + 4 else s.pc + 2
      | .sneByte x kk => t.pc = if s.v[x.val] ≠ kk then s.pc + 4 else s.pc + 2
      | .seReg x y => t.pc = if s.v[x.val] = s.v[y.val] then s.pc + 4 else s.pc + 2
      | .sneReg x y => t.pc = if s.v[x.val] ≠ s.v[y.val] then s.pc + 4 else s.pc + 2
      | .skp x => t.pc = if s.keys.getLsbD s.v[x.val].toNat = true then s.pc + 4 else s.pc + 2
      | .sknp x => t.pc = if s.keys.getLsbD s.v[x.val].toNat = false then s.pc + 4 else s.pc + 2
      | .ldVxK _ => t.pc = if s.keys = 0 then s.pc else s.pc + 2
      | _ => t.pc = s.pc + 2)

/-- R90, R96: every tick answers a next state: no tick of this machine is refused or without meaning. -/
def Obligations.EveryTickAnswersNext : Prop :=
  ∀ s : State, ∃ t, step s = .next t

/-! ## Faults (60_exceptions.md; the latch ERR is the spec's decision D3, log 1) -/

/-- R96 (decision D3; the model's choice of a next state is log 1): once a fault is latched a tick
changes nothing. -/
def Obligations.HaltedTickChangesNothing : Prop :=
  ∀ s : State, s.halted → step s = .next s

/-- R176, R178 (decision D3): faults are precise. A tick that faults leaves the state as it was before the tick
apart from ERR, and ERR.info is the word for UnknownOpcode and 0 otherwise. -/
def Obligations.FaultsArePrecise : Prop :=
  ∀ s t : State, s.running → step s = .next t → t.halted →
    t = { s with err := t.err } ∧
    (t.err.code = .unknownOpcode → fetchWord s = some t.err.info) ∧
    (t.err.code ≠ .unknownOpcode → t.err.info = 0)

/-- R170, R173 to R177, R179: in a running state every instruction answers a next state, it raises exactly the
fault of the table under exactly the table's condition (the two added ones are decisions D2 and D8, log 11),
and a fault changes nothing but ERR, so nothing is stored, read or drawn before the check (R64). -/
def Obligations.ExecuteFaultsExactly : Prop :=
  ∀ (i : Instr) (s : State), s.running → ∃ t, exec i s = .next t ∧
    t.err.code = executeFault i s ∧
    (executeFault i s ≠ .noFault → t = { s with err := { code := executeFault i s, info := 0 } })

/-! ## Control flow (41_control_flow.md) -/

/-- R101, R107: JP and JP V0 set PC and change nothing else; the sum of JP V0 is not reduced. -/
def Obligations.JumpsSetPcOnly : Prop :=
  ∀ (nnn : BitVec 12) (s : State),
    (∃ t, exec (.jp nnn) s = .next t ∧ t.pc.toNat = nnn.toNat ∧ t = { s with pc := t.pc }) ∧
    (∃ t, exec (.jpV0 nnn) s = .next t ∧ t.pc.toNat = s.v[0].toNat + nnn.toNat ∧
      t = { s with pc := t.pc })

/-- R103, R104, R105, R106: the four register skips: PC + 4 if the condition holds, else PC + 2, and
nothing else changes; a register is compared like any other when it is VF. -/
def Obligations.RegisterSkips : Prop :=
  ∀ (x y : Reg) (kk : Byte) (s : State),
    exec (.seByte x kk) s = .next { s with pc := if s.v[x.val] = kk then s.pc + 4 else s.pc + 2 } ∧
    exec (.sneByte x kk) s = .next { s with pc := if s.v[x.val] = kk then s.pc + 2 else s.pc + 4 } ∧
    exec (.seReg x y) s =
      .next { s with pc := if s.v[x.val] = s.v[y.val] then s.pc + 4 else s.pc + 2 } ∧
    exec (.sneReg x y) s =
      .next { s with pc := if s.v[x.val] = s.v[y.val] then s.pc + 2 else s.pc + 4 }

/-- R102, R173: CALL with SP below 16 writes PC + 2 to STACK[SP], adds 1 to SP, jumps to nnn and changes
nothing else; with SP = 16 it raises StackOverflow with nothing pushed. -/
def Obligations.CallPushesOrOverflows : Prop :=
  ∀ (nnn : BitVec 12) (s : State),
    (s.sp.val < 16 → ∃ t, exec (.call nnn) s = .next t ∧ t.pc.toNat = nnn.toNat ∧
      t.sp.val = s.sp.val + 1 ∧
      (∀ j : Fin 16, t.stack[j.val] = if j.val = s.sp.val then s.pc + 2 else s.stack[j.val]) ∧
      (∀ a, t.mem.read a = s.mem.read a) ∧
      t = { s with pc := t.pc, sp := t.sp, stack := t.stack }) ∧
    (s.sp.val = 16 →
      exec (.call nnn) s = .next { s with err := { code := .stackOverflow, info := 0 } })

/-- R100, R174: RET with SP above 0 takes 1 from SP and sets PC to the entry uncovered, with nothing
added, and changes nothing else (the entry keeps its value); with SP = 0 it raises StackUnderflow. -/
def Obligations.RetPopsOrUnderflows : Prop :=
  ∀ s : State,
    (∀ j : Fin 16, s.sp.val = j.val + 1 → ∃ t, exec .ret s = .next t ∧
      t.pc = s.stack[j.val] ∧ t.sp.val = j.val ∧ (∀ a, t.mem.read a = s.mem.read a) ∧
      t = { s with pc := t.pc, sp := t.sp }) ∧
    (s.sp.val = 0 → exec .ret s = .next { s with err := { code := .stackUnderflow, info := 0 } })

/-- R108 (and the source's round trip): two ticks that run a CALL and then a RET at its target bring PC to
the CALL's address plus 2, with SP, the registers, I and memory as they were. -/
def Obligations.CallThenReturnRoundTrip : Prop :=
  ∀ (s : State) (nnn : BitVec 12), s.running → s.sp.val < 16 → nnn.toNat ≤ 4094 →
    fetchInstr s = some (.call nnn) →
    decodeWord (wordOfBytes (s.mem.read nnn.toNat) (s.mem.read (nnn.toNat + 1))) = some .ret →
    ∃ t u, step s = .next t ∧ step t = .next u ∧ u.pc = s.pc + 2 ∧ u.sp = s.sp ∧
      u.v = s.v ∧ u.i = s.i ∧ (∀ a, u.mem.read a = s.mem.read a) ∧ u.running

/-! ## Loads and the ALU group (42_alu.md) -/

/-- R120, R121: LD Vx, kk and ADD Vx, kk write V[x] (the sum modulo 256), leave every other register
alone, VF included unless x = 15, and change nothing else but PC + 2. -/
def Obligations.ImmediateForms : Prop :=
  ∀ (x : Reg) (kk : Byte) (s : State),
    (∃ t, exec (.ldByte x kk) s = .next t ∧ t.pc = s.pc + 2 ∧
      (∀ r : Reg, t.v[r.val] = if r = x then kk else s.v[r.val]) ∧
      t.i = s.i ∧ t.rndDraws = s.rndDraws ∧ s.sameBeyondRegs t) ∧
    (∃ t, exec (.addByte x kk) s = .next t ∧ t.pc = s.pc + 2 ∧
      (∀ r : Reg, t.v[r.val].toNat =
        if r = x then (s.v[x.val].toNat + kk.toNat) % 256 else s.v[r.val].toNat) ∧
      t.i = s.i ∧ t.rndDraws = s.rndDraws ∧ s.sameBeyondRegs t)

/-- R122, which the source does not list: present by decision D5 (log 5). LD Vx, Vy copies V[y] to V[x]
and changes nothing else but PC + 2. -/
def Obligations.RegisterMove : Prop :=
  ∀ (x y : Reg) (s : State), ∃ t, exec (.ldReg x y) s = .next t ∧ t.pc = s.pc + 2 ∧
    (∀ r : Reg, t.v[r.val] = if r = x then s.v[y.val] else s.v[r.val]) ∧
    t.i = s.i ∧ t.rndDraws = s.rndDraws ∧ s.sameBeyondRegs t

/-- R124, R125, R126: OR, AND, XOR bit by bit into V[x]; no flag is written: VF is as it was unless
x = 15. -/
def Obligations.LogicOperations : Prop :=
  ∀ (x y : Reg) (s : State),
    (∃ t, exec (.orReg x y) s = .next t ∧ t.pc = s.pc + 2 ∧
      (∀ k, t.v[x.val].getLsbD k = (s.v[x.val].getLsbD k || s.v[y.val].getLsbD k)) ∧
      (∀ r : Reg, r ≠ x → t.v[r.val] = s.v[r.val]) ∧
      t.i = s.i ∧ t.rndDraws = s.rndDraws ∧ s.sameBeyondRegs t) ∧
    (∃ t, exec (.andReg x y) s = .next t ∧ t.pc = s.pc + 2 ∧
      (∀ k, t.v[x.val].getLsbD k = (s.v[x.val].getLsbD k && s.v[y.val].getLsbD k)) ∧
      (∀ r : Reg, r ≠ x → t.v[r.val] = s.v[r.val]) ∧
      t.i = s.i ∧ t.rndDraws = s.rndDraws ∧ s.sameBeyondRegs t) ∧
    (∃ t, exec (.xorReg x y) s = .next t ∧ t.pc = s.pc + 2 ∧
      (∀ k, t.v[x.val].getLsbD k = (s.v[x.val].getLsbD k ^^ s.v[y.val].getLsbD k)) ∧
      (∀ r : Reg, r ≠ x → t.v[r.val] = s.v[r.val]) ∧
      t.i = s.i ∧ t.rndDraws = s.rndDraws ∧ s.sameBeyondRegs t)

/-- R127: ADD Vx, Vy: the sum modulo 256 to V[x], the carry of the unwrapped sum to VF; with x = 15 the
sum stays in VF; with y = 15 the operand is the old VF. The forms with x = 15 or y = 15 rest on the operand
latching of R123, the spec's own decision D12 (log 12). -/
def Obligations.AddWithCarry : Prop :=
  ∀ (x y : Reg) (s : State), ∃ t, exec (.addReg x y) s = .next t ∧ t.pc = s.pc + 2 ∧
    (∀ r : Reg, t.v[r.val].toNat =
      if r = x then (s.v[x.val].toNat + s.v[y.val].toNat) % 256
      else if r = 15 then (if s.v[x.val].toNat + s.v[y.val].toNat > 255 then 1 else 0)
      else s.v[r.val].toNat) ∧
    t.i = s.i ∧ t.rndDraws = s.rndDraws ∧ s.sameBeyondRegs t

/-- R128, R130: SUB and SUBN: the difference modulo 256 to V[x]; VF is the STRICT comparison, 0 at
equality; with x = 15 the difference stays in VF. The forms with x = 15 or y = 15 rest on the operand
latching of R123, the spec's own decision D12 (log 12). -/
def Obligations.SubtractStrictFlag : Prop :=
  ∀ (x y : Reg) (s : State),
    (∃ t, exec (.sub x y) s = .next t ∧ t.pc = s.pc + 2 ∧
      (∀ r : Reg, (t.v[r.val].toNat : Int) =
        if r = x then ((s.v[x.val].toNat : Int) - s.v[y.val].toNat) % 256
        else if r = 15 then (if s.v[x.val].toNat > s.v[y.val].toNat then 1 else 0)
        else s.v[r.val].toNat) ∧
      t.i = s.i ∧ t.rndDraws = s.rndDraws ∧ s.sameBeyondRegs t) ∧
    (∃ t, exec (.subn x y) s = .next t ∧ t.pc = s.pc + 2 ∧
      (∀ r : Reg, (t.v[r.val].toNat : Int) =
        if r = x then ((s.v[y.val].toNat : Int) - s.v[x.val].toNat) % 256
        else if r = 15 then (if s.v[x.val].toNat < s.v[y.val].toNat then 1 else 0)
        else s.v[r.val].toNat) ∧
      t.i = s.i ∧ t.rndDraws = s.rndDraws ∧ s.sameBeyondRegs t)

/-- R129, R131: SHR and SHL by one bit, for every y field: V[x] div 2 or V[x] * 2 modulo 256, VF the bit
shifted out (bit 0, bit 7); with x = 15 the result stays in VF. The form with x = 15 (the result from the
old VF, after the flag write) rests on the operand latching of R123, the spec's own decision D12 (log 12). -/
def Obligations.ShiftsByOne : Prop :=
  ∀ (x y : Reg) (s : State),
    (∃ t, exec (.shr x y) s = .next t ∧ t.pc = s.pc + 2 ∧
      (∀ r : Reg, t.v[r.val].toNat =
        if r = x then s.v[x.val].toNat / 2
        else if r = 15 then s.v[x.val].toNat % 2
        else s.v[r.val].toNat) ∧
      t.i = s.i ∧ t.rndDraws = s.rndDraws ∧ s.sameBeyondRegs t) ∧
    (∃ t, exec (.shl x y) s = .next t ∧ t.pc = s.pc + 2 ∧
      (∀ r : Reg, t.v[r.val].toNat =
        if r = x then s.v[x.val].toNat * 2 % 256
        else if r = 15 then s.v[x.val].toNat / 128
        else s.v[r.val].toNat) ∧
      t.i = s.i ∧ t.rndDraws = s.rndDraws ∧ s.sameBeyondRegs t)

/-- R132 (decision D16; the free byte is log 2): RND writes the tick's byte AND kk to V[x], so a bit that
is 0 in kk is 0 in the result; the byte is consumed; nothing else changes but PC + 2. It holds for every
byte the host may supply. -/
def Obligations.RandomByteIsMasked : Prop :=
  ∀ (x : Reg) (kk : Byte) (s : State), ∃ t, exec (.rnd x kk) s = .next t ∧ t.pc = s.pc + 2 ∧
    (∀ k, t.v[x.val].getLsbD k = (s.rndByte.getLsbD k && kk.getLsbD k)) ∧
    t.v[x.val].toNat ≤ kk.toNat ∧
    (∀ r : Reg, r ≠ x → t.v[r.val] = s.v[r.val]) ∧
    t.i = s.i ∧ t.rndDraws = s.rndDraws + 1 ∧ s.sameBeyondRegs t

/-! ## Index register and memory transfers (43_index_memory.md) -/

/-- R140: LD I, nnn sets I and changes nothing else but PC + 2. -/
def Obligations.LoadIndexImmediate : Prop :=
  ∀ (nnn : BitVec 12) (s : State), ∃ t, exec (.ldI nnn) s = .next t ∧
    t.i.toNat = nnn.toNat ∧ t.pc = s.pc + 2 ∧ (∀ a, t.mem.read a = s.mem.read a) ∧
    t = { s with i := t.i, pc := t.pc }

/-- R141 (decision D9 beyond 16 bits, log 12): ADD I, Vx: the sum modulo 65536 to I, not masked to 12 bits;
VF is 1 exactly if the unwrapped sum exceeds 0xFFF; with x = 15 the operand is the old VF. -/
def Obligations.AddToIndex : Prop :=
  ∀ (x : Reg) (s : State), ∃ t, exec (.addI x) s = .next t ∧
    t.i.toNat = (s.i.toNat + s.v[x.val].toNat) % 65536 ∧ t.pc = s.pc + 2 ∧
    (∀ r : Reg, t.v[r.val].toNat =
      if r = 15 then (if s.i.toNat + s.v[x.val].toNat > 0xFFF then 1 else 0) else s.v[r.val].toNat) ∧
    t.rndDraws = s.rndDraws ∧ s.sameBeyondRegs t

/-- R142 (decision D10 for V[x] above 15, log 12): LD F, Vx sets I to 5 times the whole V[x] and changes
nothing else but PC + 2. -/
def Obligations.FontGlyphAddress : Prop :=
  ∀ (x : Reg) (s : State), ∃ t, exec (.ldF x) s = .next t ∧
    t.i.toNat = 5 * s.v[x.val].toNat ∧ t.pc = s.pc + 2 ∧ (∀ a, t.mem.read a = s.mem.read a) ∧
    t = { s with i := t.i, pc := t.pc }

/-- R143 (the range fault is decision D2, log 11): LD B, Vx with I at most 4093 stores the three decimal
digits at I, I+1, I+2, hundreds first, leaves every other byte and everything else but PC + 2; otherwise
it raises DataOutOfBounds with nothing stored. -/
def Obligations.BcdStore : Prop :=
  ∀ (x : Reg) (s : State),
    (dataAddr s 2 ≤ 4095 → ∃ t, exec (.ldB x) s = .next t ∧
      (t.mem.read (dataAddr s 0)).toNat = s.v[x.val].toNat / 100 ∧
      (t.mem.read (dataAddr s 1)).toNat = s.v[x.val].toNat / 10 % 10 ∧
      (t.mem.read (dataAddr s 2)).toNat = s.v[x.val].toNat % 10 ∧
      (∀ a, a < dataAddr s 0 ∨ dataAddr s 2 < a → t.mem.read a = s.mem.read a) ∧
      t.pc = s.pc + 2 ∧ t = { s with mem := t.mem, pc := t.pc }) ∧
    (4095 < dataAddr s 2 →
      exec (.ldB x) s = .next { s with err := { code := .dataOutOfBounds, info := 0 } })

/-- R144 (the range fault is decision D2, log 11): LD [I], Vx with I + x at most 4095 stores V[0] to V[x]
at I to I + x, adds x + 1 to I and leaves every other byte and everything else but PC + 2; otherwise it
raises DataOutOfBounds with nothing stored. -/
def Obligations.BlockStore : Prop :=
  ∀ (x : Reg) (s : State),
    (dataAddr s x.val ≤ 4095 → ∃ t, exec (.storeRegs x) s = .next t ∧
      (∀ k : Reg, k ≤ x → t.mem.read (dataAddr s k.val) = s.v[k.val]) ∧
      (∀ a, a < dataAddr s 0 ∨ dataAddr s x.val < a → t.mem.read a = s.mem.read a) ∧
      t.i.toNat = s.i.toNat + x.val + 1 ∧ t.pc = s.pc + 2 ∧
      t = { s with mem := t.mem, i := t.i, pc := t.pc }) ∧
    (4095 < dataAddr s x.val →
      exec (.storeRegs x) s = .next { s with err := { code := .dataOutOfBounds, info := 0 } })

/-- R145 (the range fault is decision D2, log 11): LD Vx, [I] with I + x at most 4095 loads V[0] to V[x]
from I to I + x, adds x + 1 to I and leaves the registers above x and everything else but PC + 2;
otherwise it raises DataOutOfBounds with no register changed. -/
def Obligations.BlockLoad : Prop :=
  ∀ (x : Reg) (s : State),
    (dataAddr s x.val ≤ 4095 → ∃ t, exec (.loadRegs x) s = .next t ∧
      (∀ k : Reg, t.v[k.val] = if k ≤ x then s.mem.read (dataAddr s k.val) else s.v[k.val]) ∧
      t.i.toNat = s.i.toNat + x.val + 1 ∧ t.pc = s.pc + 2 ∧
      t.rndDraws = s.rndDraws ∧ s.sameBeyondRegs t) ∧
    (4095 < dataAddr s x.val →
      exec (.loadRegs x) s = .next { s with err := { code := .dataOutOfBounds, info := 0 } })

/-- R144, R145 together: after a block store that did not fault, loading the same block back from the same
I, over any registers, gives V[0] to V[x] their stored values. -/
def Obligations.BlockStoreThenLoad : Prop :=
  ∀ (x : Reg) (s t : State) (regs : Vector Byte 16),
    s.running → exec (.storeRegs x) s = .next t → t.running →
    ∃ u, exec (.loadRegs x) { t with i := s.i, v := regs } = .next u ∧
      ∀ k : Reg, k ≤ x → u.v[k.val] = s.v[k.val]

/-- R60 (decision D23): a store is seen by the next fetch. A block store of two or more registers to the
address right after its own instruction makes V[0] and V[1] the next instruction word. -/
def Obligations.StoreIsSeenByNextFetch : Prop :=
  ∀ (x : Reg) (s t : State), s.running → 1 ≤ x.val → fetchInstr s = some (.storeRegs x) →
    dataAddr s 0 = s.pc.toNat + 2 → dataAddr s x.val ≤ 4095 → step s = .next t →
    fetchWord t = some (wordOfBytes s.v[0] s.v[1])

/-! ## Display (44_display.md) -/

/-- R151: CLS turns every cell off, sets REDRAW whether or not one was on, and changes nothing else but
PC + 2; VF is not written. -/
def Obligations.ClearScreen : Prop :=
  ∀ s : State, ∃ t, exec .cls s = .next t ∧ (∀ r c, fbGet t.fb r c = false) ∧ t.redraw = true ∧
    t.pc = s.pc + 2 ∧ (∀ a, t.mem.read a = s.mem.read a) ∧
    t = { s with fb := t.fb, redraw := t.redraw, pc := t.pc }

/-- R152 to R155 in the closed form of R154 (the spec derives it; the latched coordinates are decision D12,
the unbounded sums D13, the range D2): with the sprite inside memory, or n = 0, each cell is XORed with
the parity of the set sprite bits whose clamped target it is; VF is 1 exactly if some cell was hit while
on, or hit twice; REDRAW is set; nothing else changes but PC + 2. -/
def Obligations.DrawClosedForm : Prop :=
  ∀ (x y : Reg) (n : BitVec 4) (s : State), n = 0 ∨ s.i.toNat + n.toNat - 1 ≤ 4095 →
    ∃ t, exec (.drw x y n) s = .next t ∧
      (∀ row col, fbGet t.fb row col =
        (fbGet s.fb row col ^^ decide (spriteHits s x y n row col % 2 = 1))) ∧
      (t.v[15] = 1 ∨ t.v[15] = 0) ∧
      (t.v[15] = 1 ↔ ∃ row col, 1 ≤ spriteHits s x y n row col ∧
        (fbGet s.fb row col = true ∨ 2 ≤ spriteHits s x y n row col)) ∧
      (∀ r : Reg, r ≠ 15 → t.v[r.val] = s.v[r.val]) ∧
      t.redraw = true ∧ t.pc = s.pc + 2 ∧ (∀ a, t.mem.read a = s.mem.read a) ∧
      t = { s with v := t.v, fb := t.fb, redraw := t.redraw, pc := t.pc }

/-- R152, R153: the row and column of a pixel saturate, they do not wrap: a one-row sprite with only its
leftmost bit set, drawn over a framebuffer that is off, lights exactly the cell (min V[y] 31, min V[x] 63). -/
def Obligations.CoordinatesClamp : Prop :=
  ∀ (x y : Reg) (s : State), s.i.toNat ≤ 4095 → s.mem.read s.i.toNat = 0x80 →
    (∀ r c, fbGet s.fb r c = false) →
    ∃ t, exec (.drw x y 1) s = .next t ∧ t.v[15] = 0 ∧
      ∀ row col, (fbGet t.fb row col = true ↔
        row.val = min s.v[y.val].toNat 31 ∧ col.val = min s.v[x.val].toNat 63)

/-- R155, the source's first law: a sprite of all-1 bits on an all-off framebuffer, with V[x] at most 56
and V[y] + n at most 32, turns exactly its cells on and leaves VF = 0. -/
def Obligations.FullSpriteOnDarkScreen : Prop :=
  ∀ (x y : Reg) (n : BitVec 4) (s t : State), s.running →
    (∀ r c, fbGet s.fb r c = false) → (∀ k, k < n.toNat → s.mem.read (s.i.toNat + k) = 0xFF) →
    s.v[x.val].toNat ≤ 56 → s.v[y.val].toNat + n.toNat ≤ 32 →
    exec (.drw x y n) s = .next t → t.running →
    t.v[15] = 0 ∧ ∀ row col, (fbGet t.fb row col = true ↔
      s.v[y.val].toNat ≤ row.val ∧ row.val < s.v[y.val].toNat + n.toNat ∧
      s.v[x.val].toNat ≤ col.val ∧ col.val < s.v[x.val].toNat + 8)

/-- R155, the second law: from any framebuffer, two identical draws in succession restore it exactly
(identical: with the registers as they were, as VF may be a coordinate); from an all-off one the second
sets VF to 1 if the sprite has a set bit. -/
def Obligations.DrawingTwiceRestores : Prop :=
  ∀ (x y : Reg) (n : BitVec 4) (s t u : State), s.running →
    exec (.drw x y n) s = .next t → t.running →
    exec (.drw x y n) { t with v := s.v } = .next u →
    u.fb = s.fb ∧
    ((∀ r c, fbGet s.fb r c = false) →
      (∃ k, k < n.toNat ∧ s.mem.read (s.i.toNat + k) ≠ 0) → u.v[15] = 1)

/-- R156: CLS and DRW each set REDRAW every time they complete, whether or not a cell changed; a faulting
DRW does not set it; no instruction clears it and no other one sets it. -/
def Obligations.RedrawFlag : Prop :=
  ∀ (i : Instr) (s t : State), s.running → exec i s = .next t →
    t.redraw = (match i with
      | .cls => true
      | .drw _ _ _ => if t.err.code = .noFault then true else s.redraw
      | _ => s.redraw)

/-! ## Keypad and timers (45_keypad_timers.md) -/

/-- R160, R161 (an index above 15 faults by decision D8, log 11): the key skips test the level of KEYS bit
V[x], change PC only, and raise KeyIndexOutOfRange, with no masking, for V[x] above 15. -/
def Obligations.KeySkips : Prop :=
  ∀ (x : Reg) (s : State),
    (s.v[x.val].toNat ≤ 15 →
      exec (.skp x) s = .next
        { s with pc := if s.keys.getLsbD s.v[x.val].toNat then s.pc + 4 else s.pc + 2 } ∧
      exec (.sknp x) s = .next
        { s with pc := if s.keys.getLsbD s.v[x.val].toNat then s.pc + 2 else s.pc + 4 }) ∧
    (15 < s.v[x.val].toNat →
      exec (.skp x) s = .next { s with err := { code := .keyIndexOutOfRange, info := 0 } } ∧
      exec (.sknp x) s = .next { s with err := { code := .keyIndexOutOfRange, info := 0 } })

/-- R162: LD Vx, K with no key down succeeds and changes nothing, PC included; with a key down it writes
the highest index that is down to V[x] and changes nothing else but PC + 2. -/
def Obligations.KeyWait : Prop :=
  ∀ (x : Reg) (s : State),
    (s.keys = 0 → exec (.ldVxK x) s = .next s) ∧
    (s.keys ≠ 0 → ∃ t, exec (.ldVxK x) s = .next t ∧ t.v[x.val].toNat ≤ 15 ∧
      s.keys.getLsbD t.v[x.val].toNat = true ∧
      (∀ k, t.v[x.val].toNat < k → s.keys.getLsbD k = false) ∧
      (∀ r : Reg, r ≠ x → t.v[r.val] = s.v[r.val]) ∧ t.pc = s.pc + 2 ∧
      t.i = s.i ∧ t.rndDraws = s.rndDraws ∧ s.sameBeyondRegs t)

/-- R163, R164, R165: the three timer moves, before the countdown of their tick: DT to V[x], V[x] to DT,
V[x] to ST, and nothing else but PC + 2. -/
def Obligations.TimerMoves : Prop :=
  ∀ (x : Reg) (s : State),
    (∃ t, exec (.ldVxDt x) s = .next t ∧ t.pc = s.pc + 2 ∧
      (∀ r : Reg, t.v[r.val] = if r = x then s.dt else s.v[r.val]) ∧
      t.i = s.i ∧ t.rndDraws = s.rndDraws ∧ s.sameBeyondRegs t) ∧
    exec (.ldDtVx x) s = .next { s with dt := s.v[x.val], pc := s.pc + 2 } ∧
    exec (.ldStVx x) s = .next { s with st := s.v[x.val], pc := s.pc + 2 }

/-! ## Frames over every instruction -/

/-- R20, R21: an instruction that answers a next state leaves every general register but those it names
as its destination, VF for the seven flag writers of R21, and V[0] to V[x] for LD Vx, [I]. -/
def Obligations.RegisterFrame : Prop :=
  ∀ (i : Instr) (s t : State) (r : Reg), exec i s = .next t → ¬ writesReg i r →
    t.v[r.val] = s.v[r.val]

/-- R56, R63: an instruction that answers a next state leaves every byte of memory but the three of LD B
and the block of LD [I], Vx, at the addresses their meanings compute. -/
def Obligations.MemoryFrame : Prop :=
  ∀ (i : Instr) (s t : State) (a : Nat), exec i s = .next t → ¬ storesTo i s a →
    t.mem.read a = s.mem.read a

/-- R37: who writes the other state. I, the stack, SP, DT, ST, FB and the count of consumed RND bytes
change only by the instructions the access summary lists; KEYS is written by none; ERR only by a fault. -/
def Obligations.AccessSummary : Prop :=
  ∀ (i : Instr) (s t : State), exec i s = .next t →
    t.keys = s.keys ∧
    (t.i = s.i ∨ (∃ nnn, i = .ldI nnn) ∨ (∃ x, i = .addI x) ∨ (∃ x, i = .ldF x) ∨
      (∃ x, i = .storeRegs x) ∨ (∃ x, i = .loadRegs x)) ∧
    (t.stack = s.stack ∨ ∃ nnn, i = .call nnn) ∧
    (t.sp = s.sp ∨ i = .ret ∨ ∃ nnn, i = .call nnn) ∧
    (t.dt = s.dt ∨ ∃ x, i = .ldDtVx x) ∧
    (t.st = s.st ∨ ∃ x, i = .ldStVx x) ∧
    (t.fb = s.fb ∨ i = .cls ∨ ∃ x y n, i = .drw x y n) ∧
    (t.redraw = s.redraw ∨ i = .cls ∨ ∃ x y n, i = .drw x y n) ∧
    (t.rndDraws = s.rndDraws ∨ ∃ x kk, i = .rnd x kk) ∧
    (t.err = s.err ∨ executeFault i s ≠ .noFault)

/-! ## Invariants -/

/-- Every tick, from every state that meets it, keeps the invariant: memory in its canonical form, PC at
most 0x10FE (R23), every live stack entry between 2 and 4096 (R102), ERR.info zero but for UnknownOpcode
(R178). -/
def Obligations.StepKeepsInvariant : Prop :=
  ∀ s t : State, s.Inv → step s = .next t → t.Inv

/-- R170 to R177, R180: a latched fault is and stays the true one: at PC stands what raised it. Every tick,
from every state of which this holds, keeps it. -/
def Obligations.StepKeepsFaultExplained : Prop :=
  ∀ s t : State, s.FaultExplained → step s = .next t → t.FaultExplained

/-- R210, R211: any sequence of host moves, ticks among them, at any gaps and in any order, keeps both
invariants, that no fault is latched before the first tick, and that memory holds its reset contents
until the load, so that the image is the only way other bytes get there before the program runs. -/
def Obligations.HostMovesKeepInvariant : Prop :=
  ∀ (ms : List HostMove) (h g : Session), h.Inv → Session.moves ms h = .next g → g.Inv

/-- The canonical form (log 10): two well-formed memories that read alike at every address are the same
list, so equal memories are equal data. -/
def Obligations.CanonicalMemoryIsUnique : Prop :=
  ∀ m n : Memory, m.wf = true → n.wf = true → (∀ a, m.read a = n.read a) → m = n

/-! ## What cannot be observed -/

/-- R24 (decision D15): call-stack entries at SP and above cannot be observed: two states that differ in
those alone stay so, tick by tick. -/
def Obligations.PoppedEntriesUnobservable : Prop :=
  ∀ s s' t : State, s.sameLiveStack s' → step s = .next t →
    ∃ t', step s' = .next t' ∧ t.sameLiveStack t'

/-- R30, R37: KEYS reaches the machine only through SKP, SKNP and LD Vx, K: any other tick does the same
whatever the host has set. -/
def Obligations.KeysReadByKeyInstructionsOnly : Prop :=
  ∀ (s t : State) (k : BitVec 16),
    (∀ x, fetchInstr s ≠ some (.skp x) ∧ fetchInstr s ≠ some (.sknp x) ∧
      fetchInstr s ≠ some (.ldVxK x)) →
    step s = .next t → step { s with keys := k } = .next { t with keys := k }

/-- R29: no instruction reads ST: a tick from a state with another ST differs in ST alone. -/
def Obligations.SoundTimerUnobservable : Prop :=
  ∀ (s t : State) (b : Byte), step s = .next t →
    ∃ c, step { s with st := b } = .next { t with st := c }

/-! ## The host (70_reset_and_hazards.md) -/

/-- R183, R211, D18 (the names of the stops are the model's, log 8): the load happens once, before the
first tick. Of at most 3584 bytes it puts the image at 512 on; in a session that meets the invariant every
other byte keeps its RESET value; nothing else changes. A second load, and one after the first tick, stop;
a longer image is refused and no run starts. -/
def Obligations.LoadPlacesImageOrIsRefused : Prop :=
  ∀ (image : List Byte) (h : Session),
    (image.length ≤ 3584 → h.stage = .fresh → ∃ g, Session.move (.load image) h = .next g ∧
      (∀ (k : Nat) (hk : k < image.length), g.core.mem.read (512 + k) = image[k]) ∧
      (∀ a, a < 512 ∨ 512 + image.length ≤ a → g.core.mem.read a = h.core.mem.read a) ∧
      (h.Inv → ∀ a, a < 512 ∨ 512 + image.length ≤ a →
        g.core.mem.read a = (State.resetWith h.font).mem.read a) ∧
      g = { h with core := { h.core with mem := g.core.mem }, stage := .loaded }) ∧
    (image.length ≤ 3584 → h.stage = .loaded → Session.move (.load image) h = .fault .loadTwice) ∧
    (image.length ≤ 3584 → h.stage = .ticked →
      Session.move (.load image) h = .fault .loadAfterFirstTick) ∧
    (3584 < image.length → Session.move (.load image) h = .refused .programTooLarge)

/-- R200 (reset at any gap is decision D1): reset gives every piece of state its reset value, whatever it
was, the halted state included, with the session's FONT, and makes the core ready for a load and the
first tick. -/
def Obligations.ResetFromAnyState : Prop :=
  ∀ h : Session, ∃ g, Session.move .reset h = .next g ∧ g.stage = .fresh ∧ g.font = h.font ∧
    g.core.toCoreState = (State.resetWith h.font).toCoreState ∧
    g.core.rndDraws = h.core.rndDraws ∧ g.core.running

/-- R212, R213, R216: set_keys writes KEYS with any value and clear_redraw clears REDRAW, in every state,
and neither touches anything else; reading has no effect. -/
def Obligations.HostWritesKeysAndRedrawOnly : Prop :=
  ∀ (h : Session) (k : BitVec 16),
    Session.moves [.setKeys k, .read] h = .next { h with core := { h.core with keys := k } } ∧
    Session.moves [.clearRedraw, .read] h = .next { h with core := { h.core with redraw := false } }

/-! ## Nothing beside the state of R36 -/

/-- R34, R35, R98: there is no other state. Two states that agree on R36's fields and see the same byte RND
do the same in a tick, whatever else the model keeps (`rndDraws`, log 2); and the byte is looked at only
by a tick that executes RND. -/
def Obligations.TickDependsOnCoreStateAndRndOnly : Prop :=
  ∀ s s' t : State, s'.toCoreState = s.toCoreState →
    (∀ x kk, fetchInstr s = some (.rnd x kk) → s'.rndByte = s.rndByte) →
    step s = .next t → ∃ t', step s' = .next t' ∧ t'.toCoreState = t.toCoreState
end

