-- ==== Sys2Proof/Laws/Decode.lean ====
section
/-! SUPPORT. What packing and reading the fields of a word do (30_encoding.md R71, R72). -/

namespace Sys2Proof

/-- Every row is listed. -/
theorem mem_allOpcodes (o : Opcode) : o ∈ allOpcodes := by cases o <;> decide

/-- R74: two different rows disagree on a bit that both masks look at. -/
theorem opcode_rows_differ : ∀ o ∈ allOpcodes, ∀ p ∈ allOpcodes, o ≠ p →
    (opcodeMask o &&& opcodeMask p) &&& (opcodeMatch o ^^^ opcodeMatch p) ≠ 0 := by decide +kernel

/-- R74: a row's literal bits lie under its mask. -/
theorem opcodeMatch_under_mask (o : Opcode) : opcodeMatch o &&& opcodeMask o = opcodeMatch o := by
  cases o <;> decide

/-- R53: the bytes of a word put together again. -/
theorem wordOfBytes_bytes (w : Word) : wordOfBytes (highByte w) (lowByte w) = w := by
  apply BitVec.eq_of_getLsbD_eq
  intro k hk
  simp only [wordOfBytes, highByte, lowByte, BitVec.getLsbD_append, BitVec.getLsbD_extractLsb']
  by_cases h : k < 8
  · simp [h]
  · have h1 : k - 8 < 8 := by omega
    have h2 : 8 + (k - 8) = k := by omega
    simp [h, h1, h2]

/-- R70: two bytes decode as their word does, and the rest is left. -/
theorem decode_cons_cons (hi lo : Byte) (rest : List Byte) :
    decode (hi :: lo :: rest) = match decodeWord (wordOfBytes hi lo) with
      | some i => .ok (i, rest)
      | none => .error (.unknownOpcode (wordOfBytes hi lo)) := rfl

/-- A word of the table is decoded as any word is. -/
theorem decodeTableWord_eq (nbits w : Nat) : decodeTableWord nbits w = decodeWord (tableWord nbits w) := by
  unfold decodeTableWord
  rw [decode_cons_cons, wordOfBytes_bytes]
  cases decodeWord (tableWord nbits w) <;> rfl

end Sys2Proof
end

