-- ==== Sys2Proof/Laws/State.lean ====
section
/-! SUPPORT. One lemma per field per update of State, so that no proof unfolds a record update. -/

namespace Sys2Proof.Machine

variable (s : State)

/-! ### setV -/

@[simp] theorem State.setV_v (r : Reg) (b : Byte) : (s.setV r b).v = s.v.set r.val b := rfl
@[simp] theorem State.setV_i (r : Reg) (b : Byte) : (s.setV r b).i = s.i := rfl
@[simp] theorem State.setV_pc (r : Reg) (b : Byte) : (s.setV r b).pc = s.pc := rfl
@[simp] theorem State.setV_stack (r : Reg) (b : Byte) : (s.setV r b).stack = s.stack := rfl
@[simp] theorem State.setV_sp (r : Reg) (b : Byte) : (s.setV r b).sp = s.sp := rfl
@[simp] theorem State.setV_mem (r : Reg) (b : Byte) : (s.setV r b).mem = s.mem := rfl
@[simp] theorem State.setV_dt (r : Reg) (b : Byte) : (s.setV r b).dt = s.dt := rfl
@[simp] theorem State.setV_st (r : Reg) (b : Byte) : (s.setV r b).st = s.st := rfl
@[simp] theorem State.setV_keys (r : Reg) (b : Byte) : (s.setV r b).keys = s.keys := rfl
@[simp] theorem State.setV_fb (r : Reg) (b : Byte) : (s.setV r b).fb = s.fb := rfl
@[simp] theorem State.setV_redraw (r : Reg) (b : Byte) : (s.setV r b).redraw = s.redraw := rfl
@[simp] theorem State.setV_err (r : Reg) (b : Byte) : (s.setV r b).err = s.err := rfl
@[simp] theorem State.setV_rndDraws (r : Reg) (b : Byte) : (s.setV r b).rndDraws = s.rndDraws := rfl

/-! ### setRegs -/

@[simp] theorem State.setRegs_v (w : Vector Byte 16) : (s.setRegs w).v = w := rfl
@[simp] theorem State.setRegs_i (w : Vector Byte 16) : (s.setRegs w).i = s.i := rfl
@[simp] theorem State.setRegs_pc (w : Vector Byte 16) : (s.setRegs w).pc = s.pc := rfl
@[simp] theorem State.setRegs_stack (w : Vector Byte 16) : (s.setRegs w).stack = s.stack := rfl
@[simp] theorem State.setRegs_sp (w : Vector Byte 16) : (s.setRegs w).sp = s.sp := rfl
@[simp] theorem State.setRegs_mem (w : Vector Byte 16) : (s.setRegs w).mem = s.mem := rfl
@[simp] theorem State.setRegs_dt (w : Vector Byte 16) : (s.setRegs w).dt = s.dt := rfl
@[simp] theorem State.setRegs_st (w : Vector Byte 16) : (s.setRegs w).st = s.st := rfl
@[simp] theorem State.setRegs_keys (w : Vector Byte 16) : (s.setRegs w).keys = s.keys := rfl
@[simp] theorem State.setRegs_fb (w : Vector Byte 16) : (s.setRegs w).fb = s.fb := rfl
@[simp] theorem State.setRegs_redraw (w : Vector Byte 16) : (s.setRegs w).redraw = s.redraw := rfl
@[simp] theorem State.setRegs_err (w : Vector Byte 16) : (s.setRegs w).err = s.err := rfl
@[simp] theorem State.setRegs_rndDraws (w : Vector Byte 16) : (s.setRegs w).rndDraws = s.rndDraws := rfl

/-! ### setI -/

@[simp] theorem State.setI_v (w : Word) : (s.setI w).v = s.v := rfl
@[simp] theorem State.setI_i (w : Word) : (s.setI w).i = w := rfl
@[simp] theorem State.setI_pc (w : Word) : (s.setI w).pc = s.pc := rfl
@[simp] theorem State.setI_stack (w : Word) : (s.setI w).stack = s.stack := rfl
@[simp] theorem State.setI_sp (w : Word) : (s.setI w).sp = s.sp := rfl
@[simp] theorem State.setI_mem (w : Word) : (s.setI w).mem = s.mem := rfl
@[simp] theorem State.setI_dt (w : Word) : (s.setI w).dt = s.dt := rfl
@[simp] theorem State.setI_st (w : Word) : (s.setI w).st = s.st := rfl
@[simp] theorem State.setI_keys (w : Word) : (s.setI w).keys = s.keys := rfl
@[simp] theorem State.setI_fb (w : Word) : (s.setI w).fb = s.fb := rfl
@[simp] theorem State.setI_redraw (w : Word) : (s.setI w).redraw = s.redraw := rfl
@[simp] theorem State.setI_err (w : Word) : (s.setI w).err = s.err := rfl
@[simp] theorem State.setI_rndDraws (w : Word) : (s.setI w).rndDraws = s.rndDraws := rfl

/-! ### setPc -/

@[simp] theorem State.setPc_v (w : Word) : (s.setPc w).v = s.v := rfl
@[simp] theorem State.setPc_i (w : Word) : (s.setPc w).i = s.i := rfl
@[simp] theorem State.setPc_pc (w : Word) : (s.setPc w).pc = w := rfl
@[simp] theorem State.setPc_stack (w : Word) : (s.setPc w).stack = s.stack := rfl
@[simp] theorem State.setPc_sp (w : Word) : (s.setPc w).sp = s.sp := rfl
@[simp] theorem State.setPc_mem (w : Word) : (s.setPc w).mem = s.mem := rfl
@[simp] theorem State.setPc_dt (w : Word) : (s.setPc w).dt = s.dt := rfl
@[simp] theorem State.setPc_st (w : Word) : (s.setPc w).st = s.st := rfl
@[simp] theorem State.setPc_keys (w : Word) : (s.setPc w).keys = s.keys := rfl
@[simp] theorem State.setPc_fb (w : Word) : (s.setPc w).fb = s.fb := rfl
@[simp] theorem State.setPc_redraw (w : Word) : (s.setPc w).redraw = s.redraw := rfl
@[simp] theorem State.setPc_err (w : Word) : (s.setPc w).err = s.err := rfl
@[simp] theorem State.setPc_rndDraws (w : Word) : (s.setPc w).rndDraws = s.rndDraws := rfl

/-! ### advance -/

@[simp] theorem State.advance_v (n : Word) : (s.advance n).v = s.v := rfl
@[simp] theorem State.advance_i (n : Word) : (s.advance n).i = s.i := rfl
@[simp] theorem State.advance_pc (n : Word) : (s.advance n).pc = s.pc + n := rfl
@[simp] theorem State.advance_stack (n : Word) : (s.advance n).stack = s.stack := rfl
@[simp] theorem State.advance_sp (n : Word) : (s.advance n).sp = s.sp := rfl
@[simp] theorem State.advance_mem (n : Word) : (s.advance n).mem = s.mem := rfl
@[simp] theorem State.advance_dt (n : Word) : (s.advance n).dt = s.dt := rfl
@[simp] theorem State.advance_st (n : Word) : (s.advance n).st = s.st := rfl
@[simp] theorem State.advance_keys (n : Word) : (s.advance n).keys = s.keys := rfl
@[simp] theorem State.advance_fb (n : Word) : (s.advance n).fb = s.fb := rfl
@[simp] theorem State.advance_redraw (n : Word) : (s.advance n).redraw = s.redraw := rfl
@[simp] theorem State.advance_err (n : Word) : (s.advance n).err = s.err := rfl
@[simp] theorem State.advance_rndDraws (n : Word) : (s.advance n).rndDraws = s.rndDraws := rfl

/-! ### setDt -/

@[simp] theorem State.setDt_v (b : Byte) : (s.setDt b).v = s.v := rfl
@[simp] theorem State.setDt_i (b : Byte) : (s.setDt b).i = s.i := rfl
@[simp] theorem State.setDt_pc (b : Byte) : (s.setDt b).pc = s.pc := rfl
@[simp] theorem State.setDt_stack (b : Byte) : (s.setDt b).stack = s.stack := rfl
@[simp] theorem State.setDt_sp (b : Byte) : (s.setDt b).sp = s.sp := rfl
@[simp] theorem State.setDt_mem (b : Byte) : (s.setDt b).mem = s.mem := rfl
@[simp] theorem State.setDt_dt (b : Byte) : (s.setDt b).dt = b := rfl
@[simp] theorem State.setDt_st (b : Byte) : (s.setDt b).st = s.st := rfl
@[simp] theorem State.setDt_keys (b : Byte) : (s.setDt b).keys = s.keys := rfl
@[simp] theorem State.setDt_fb (b : Byte) : (s.setDt b).fb = s.fb := rfl
@[simp] theorem State.setDt_redraw (b : Byte) : (s.setDt b).redraw = s.redraw := rfl
@[simp] theorem State.setDt_err (b : Byte) : (s.setDt b).err = s.err := rfl
@[simp] theorem State.setDt_rndDraws (b : Byte) : (s.setDt b).rndDraws = s.rndDraws := rfl

/-! ### setSt -/

@[simp] theorem State.setSt_v (b : Byte) : (s.setSt b).v = s.v := rfl
@[simp] theorem State.setSt_i (b : Byte) : (s.setSt b).i = s.i := rfl
@[simp] theorem State.setSt_pc (b : Byte) : (s.setSt b).pc = s.pc := rfl
@[simp] theorem State.setSt_stack (b : Byte) : (s.setSt b).stack = s.stack := rfl
@[simp] theorem State.setSt_sp (b : Byte) : (s.setSt b).sp = s.sp := rfl
@[simp] theorem State.setSt_mem (b : Byte) : (s.setSt b).mem = s.mem := rfl
@[simp] theorem State.setSt_dt (b : Byte) : (s.setSt b).dt = s.dt := rfl
@[simp] theorem State.setSt_st (b : Byte) : (s.setSt b).st = b := rfl
@[simp] theorem State.setSt_keys (b : Byte) : (s.setSt b).keys = s.keys := rfl
@[simp] theorem State.setSt_fb (b : Byte) : (s.setSt b).fb = s.fb := rfl
@[simp] theorem State.setSt_redraw (b : Byte) : (s.setSt b).redraw = s.redraw := rfl
@[simp] theorem State.setSt_err (b : Byte) : (s.setSt b).err = s.err := rfl
@[simp] theorem State.setSt_rndDraws (b : Byte) : (s.setSt b).rndDraws = s.rndDraws := rfl

/-! ### setMem -/

@[simp] theorem State.setMem_v (m : Memory) : (s.setMem m).v = s.v := rfl
@[simp] theorem State.setMem_i (m : Memory) : (s.setMem m).i = s.i := rfl
@[simp] theorem State.setMem_pc (m : Memory) : (s.setMem m).pc = s.pc := rfl
@[simp] theorem State.setMem_stack (m : Memory) : (s.setMem m).stack = s.stack := rfl
@[simp] theorem State.setMem_sp (m : Memory) : (s.setMem m).sp = s.sp := rfl
@[simp] theorem State.setMem_mem (m : Memory) : (s.setMem m).mem = m := rfl
@[simp] theorem State.setMem_dt (m : Memory) : (s.setMem m).dt = s.dt := rfl
@[simp] theorem State.setMem_st (m : Memory) : (s.setMem m).st = s.st := rfl
@[simp] theorem State.setMem_keys (m : Memory) : (s.setMem m).keys = s.keys := rfl
@[simp] theorem State.setMem_fb (m : Memory) : (s.setMem m).fb = s.fb := rfl
@[simp] theorem State.setMem_redraw (m : Memory) : (s.setMem m).redraw = s.redraw := rfl
@[simp] theorem State.setMem_err (m : Memory) : (s.setMem m).err = s.err := rfl
@[simp] theorem State.setMem_rndDraws (m : Memory) : (s.setMem m).rndDraws = s.rndDraws := rfl

/-! ### present -/

@[simp] theorem State.present_v (fb : Framebuffer) : (s.present fb).v = s.v := rfl
@[simp] theorem State.present_i (fb : Framebuffer) : (s.present fb).i = s.i := rfl
@[simp] theorem State.present_pc (fb : Framebuffer) : (s.present fb).pc = s.pc := rfl
@[simp] theorem State.present_stack (fb : Framebuffer) : (s.present fb).stack = s.stack := rfl
@[simp] theorem State.present_sp (fb : Framebuffer) : (s.present fb).sp = s.sp := rfl
@[simp] theorem State.present_mem (fb : Framebuffer) : (s.present fb).mem = s.mem := rfl
@[simp] theorem State.present_dt (fb : Framebuffer) : (s.present fb).dt = s.dt := rfl
@[simp] theorem State.present_st (fb : Framebuffer) : (s.present fb).st = s.st := rfl
@[simp] theorem State.present_keys (fb : Framebuffer) : (s.present fb).keys = s.keys := rfl
@[simp] theorem State.present_fb (fb : Framebuffer) : (s.present fb).fb = fb := rfl
@[simp] theorem State.present_redraw (fb : Framebuffer) : (s.present fb).redraw = true := rfl
@[simp] theorem State.present_err (fb : Framebuffer) : (s.present fb).err = s.err := rfl
@[simp] theorem State.present_rndDraws (fb : Framebuffer) : (s.present fb).rndDraws = s.rndDraws := rfl

/-! ### rndConsumed -/

@[simp] theorem State.rndConsumed_v : (s.rndConsumed).v = s.v := rfl
@[simp] theorem State.rndConsumed_i : (s.rndConsumed).i = s.i := rfl
@[simp] theorem State.rndConsumed_pc : (s.rndConsumed).pc = s.pc := rfl
@[simp] theorem State.rndConsumed_stack : (s.rndConsumed).stack = s.stack := rfl
@[simp] theorem State.rndConsumed_sp : (s.rndConsumed).sp = s.sp := rfl
@[simp] theorem State.rndConsumed_mem : (s.rndConsumed).mem = s.mem := rfl
@[simp] theorem State.rndConsumed_dt : (s.rndConsumed).dt = s.dt := rfl
@[simp] theorem State.rndConsumed_st : (s.rndConsumed).st = s.st := rfl
@[simp] theorem State.rndConsumed_keys : (s.rndConsumed).keys = s.keys := rfl
@[simp] theorem State.rndConsumed_fb : (s.rndConsumed).fb = s.fb := rfl
@[simp] theorem State.rndConsumed_redraw : (s.rndConsumed).redraw = s.redraw := rfl
@[simp] theorem State.rndConsumed_err : (s.rndConsumed).err = s.err := rfl
@[simp] theorem State.rndConsumed_rndDraws : (s.rndConsumed).rndDraws = s.rndDraws + 1 := rfl

/-! ### setKeys -/

@[simp] theorem State.setKeys_v (k : BitVec 16) : (s.setKeys k).v = s.v := rfl
@[simp] theorem State.setKeys_i (k : BitVec 16) : (s.setKeys k).i = s.i := rfl
@[simp] theorem State.setKeys_pc (k : BitVec 16) : (s.setKeys k).pc = s.pc := rfl
@[simp] theorem State.setKeys_stack (k : BitVec 16) : (s.setKeys k).stack = s.stack := rfl
@[simp] theorem State.setKeys_sp (k : BitVec 16) : (s.setKeys k).sp = s.sp := rfl
@[simp] theorem State.setKeys_mem (k : BitVec 16) : (s.setKeys k).mem = s.mem := rfl
@[simp] theorem State.setKeys_dt (k : BitVec 16) : (s.setKeys k).dt = s.dt := rfl
@[simp] theorem State.setKeys_st (k : BitVec 16) : (s.setKeys k).st = s.st := rfl
@[simp] theorem State.setKeys_keys (k : BitVec 16) : (s.setKeys k).keys = k := rfl
@[simp] theorem State.setKeys_fb (k : BitVec 16) : (s.setKeys k).fb = s.fb := rfl
@[simp] theorem State.setKeys_redraw (k : BitVec 16) : (s.setKeys k).redraw = s.redraw := rfl
@[simp] theorem State.setKeys_err (k : BitVec 16) : (s.setKeys k).err = s.err := rfl
@[simp] theorem State.setKeys_rndDraws (k : BitVec 16) : (s.setKeys k).rndDraws = s.rndDraws := rfl

/-! ### clearRedraw -/

@[simp] theorem State.clearRedraw_v : (s.clearRedraw).v = s.v := rfl
@[simp] theorem State.clearRedraw_i : (s.clearRedraw).i = s.i := rfl
@[simp] theorem State.clearRedraw_pc : (s.clearRedraw).pc = s.pc := rfl
@[simp] theorem State.clearRedraw_stack : (s.clearRedraw).stack = s.stack := rfl
@[simp] theorem State.clearRedraw_sp : (s.clearRedraw).sp = s.sp := rfl
@[simp] theorem State.clearRedraw_mem : (s.clearRedraw).mem = s.mem := rfl
@[simp] theorem State.clearRedraw_dt : (s.clearRedraw).dt = s.dt := rfl
@[simp] theorem State.clearRedraw_st : (s.clearRedraw).st = s.st := rfl
@[simp] theorem State.clearRedraw_keys : (s.clearRedraw).keys = s.keys := rfl
@[simp] theorem State.clearRedraw_fb : (s.clearRedraw).fb = s.fb := rfl
@[simp] theorem State.clearRedraw_redraw : (s.clearRedraw).redraw = false := rfl
@[simp] theorem State.clearRedraw_err : (s.clearRedraw).err = s.err := rfl
@[simp] theorem State.clearRedraw_rndDraws : (s.clearRedraw).rndDraws = s.rndDraws := rfl

/-! ### countdown -/

@[simp] theorem countdown_v : (countdown s).v = s.v := rfl
@[simp] theorem countdown_i : (countdown s).i = s.i := rfl
@[simp] theorem countdown_pc : (countdown s).pc = s.pc := rfl
@[simp] theorem countdown_stack : (countdown s).stack = s.stack := rfl
@[simp] theorem countdown_sp : (countdown s).sp = s.sp := rfl
@[simp] theorem countdown_mem : (countdown s).mem = s.mem := rfl
@[simp] theorem countdown_dt : (countdown s).dt = timerDown s.dt := rfl
@[simp] theorem countdown_st : (countdown s).st = timerDown s.st := rfl
@[simp] theorem countdown_keys : (countdown s).keys = s.keys := rfl
@[simp] theorem countdown_fb : (countdown s).fb = s.fb := rfl
@[simp] theorem countdown_redraw : (countdown s).redraw = s.redraw := rfl
@[simp] theorem countdown_err : (countdown s).err = s.err := rfl
@[simp] theorem countdown_rndDraws : (countdown s).rndDraws = s.rndDraws := rfl

/-! ### reset with a font -/

/-- Under the default FONT memory lists nothing at reset (log 10). -/
theorem Memory.writeBytes_defaultFont : Memory.writeBytes [] 0 defaultFont.toList = [] := by decide

/-- R8, R36: the default FONT gives the state after reset. -/
theorem State.resetWith_defaultFont : State.resetWith defaultFont = State.reset := by
  show State.reset.setMem (Memory.writeBytes [] 0 defaultFont.toList) = State.reset
  rw [Memory.writeBytes_defaultFont]
  rfl

/-- The interface's machine is the one under the default FONT. -/
theorem coreWith_defaultFont : coreWith defaultFont = Sys2Proof.core := by
  simp only [coreWith, Sys2Proof.core, State.resetWith_defaultFont]

@[simp] theorem State.resetWith_mem (f : Font) :
    (State.resetWith f).mem = Memory.writeBytes [] 0 f.toList := rfl
@[simp] theorem State.resetWith_setMem (f : Font) :
    (State.resetWith f).setMem [] = State.reset := rfl

/-! ### CORE's own state (R35) -/

/-- Supplying a byte RND is no change of CORE. -/
@[simp] theorem State.rndConsumed_toCoreState : s.rndConsumed.toCoreState = s.toCoreState := rfl

/-! ### reading a register back -/

/-- A register read after a register write (R20). -/
theorem State.getV_setV (r q : Reg) (b : Byte) :
    (s.setV r b).v[q.val] = if r = q then b else s.v[q.val] := by
  simp [Vector.getElem_set, Fin.ext_iff]

end Sys2Proof.Machine
end

