-- ==== Sys2Proof/Laws/Ops.lean ====
section
/-! SUPPORT. One lemma per shared operation that says everything it can do; proofs about instructions cite
these and do not unfold the operations. -/

namespace Sys2Proof.Machine

variable {s t : State}

/-! ## Faults and ranges -/

/-- R176: a fault writes ERR and nothing else. -/
theorem raiseFault_next {c : ErrCode} {w : Word} (h : raiseFault c w s = .next t) :
    t = { s with err := { code := c, info := w } } := by
  simpa [raiseFault] using h.symm

/-- R64, R175: an access either faults with nothing changed, or lies inside memory and goes on. -/
theorem withRange_cases (a n : Nat) (s : State) (go : Result) :
    (0 < n ∧ 4095 < a + n - 1 ∧ withRange a n s go = raiseFault .dataOutOfBounds 0 s) ∨
    ((n = 0 ∨ a + n ≤ 4096) ∧ withRange a n s go = go) := by
  unfold withRange
  by_cases h : rangeFaults a n = true
  · obtain ⟨h1, h2⟩ := (rangeFaults_eq_true_iff a n).1 h
    exact .inl ⟨h1, h2, by simp [h]⟩
  · exact .inr ⟨(rangeFaults_eq_false_iff a n).1 (by simpa using h), by simp [h]⟩

/-- R64: an access inside memory goes on. -/
theorem withRange_ok {a n : Nat} (h : n = 0 ∨ a + n ≤ 4096) (s : State) (go : Result) :
    withRange a n s go = go := by
  simp [withRange, (rangeFaults_eq_false_iff a n).2 h]

/-- R64, R175: an access beyond 4095 faults, whatever would have followed. -/
theorem withRange_fault {a n : Nat} (h : 0 < n ∧ 4095 < a + n - 1) (s : State) (go : Result) :
    withRange a n s go = .next { s with err := { code := .dataOutOfBounds, info := 0 } } := by
  simp [withRange, (rangeFaults_eq_true_iff a n).2 h, raiseFault]

/-! ## The call stack -/

/-- R102: with SP below 16 the push is this. -/
theorem pushReturn_ok (a : Word) (h : s.sp.val < 16) :
    pushReturn s a =
      some { s with stack := s.stack.set s.sp.val a, sp := ⟨s.sp.val + 1, by omega⟩ } := by
  simp [pushReturn, h]

/-- R173: with SP = 16 there is none. -/
theorem pushReturn_full (a : Word) (h : s.sp.val = 16) : pushReturn s a = none := by
  simp [pushReturn, h]

/-- R100: with SP above 0 the pop is this. -/
theorem popReturn_ok (h : 0 < s.sp.val) :
    popReturn s = some (s.stack[s.sp.val - 1]'(by omega), { s with sp := ⟨s.sp.val - 1, by omega⟩ }) := by
  unfold popReturn
  rw [dif_neg (by omega)]

/-- R174: with SP = 0 there is none. -/
theorem popReturn_empty (h : s.sp.val = 0) : popReturn s = none := by
  unfold popReturn
  rw [dif_pos h]

/-- R102: a push succeeds exactly when SP < 16; it writes STACK[SP] and then SP, nothing else. -/
theorem pushReturn_some {a : Word} (h : pushReturn s a = some t) :
    ∃ hs : s.sp.val < 16,
      t = { s with stack := s.stack.set s.sp.val a, sp := ⟨s.sp.val + 1, by omega⟩ } := by
  unfold pushReturn at h
  split at h
  · rename_i hs
    exact ⟨hs, by simpa using h.symm⟩
  · simp at h

theorem pushReturn_none {a : Word} (h : pushReturn s a = none) : s.sp.val = 16 := by
  unfold pushReturn at h
  split at h
  · simp at h
  · omega

/-- R100: a pop succeeds exactly when SP > 0; it answers STACK[SP - 1] and writes SP, nothing else. -/
theorem popReturn_some {a : Word} (h : popReturn s = some (a, t)) :
    ∃ hs : 0 < s.sp.val, a = s.stack[s.sp.val - 1]'(by omega) ∧
      t = { s with sp := ⟨s.sp.val - 1, by omega⟩ } := by
  unfold popReturn at h
  split at h
  · simp at h
  · rename_i hs
    simp only [Option.some.injEq, Prod.mk.injEq] at h
    exact ⟨by omega, h.1.symm, h.2.symm⟩

theorem popReturn_none (h : popReturn s = none) : s.sp.val = 0 := by
  unfold popReturn at h
  split at h
  · assumption
  · simp at h

/-! ## Ends of instructions and of the tick -/

theorem finish_next (h : finish s = .next t) : t = s.advance 2 := by
  simpa [finish] using h.symm

/-- R94: a skip changes PC only, by 4 or by 2. -/
theorem skipIf_next {c : Bool} (h : skipIf c s = .next t) :
    t = s.advance (if c then 4 else 2) := by
  simpa [skipIf] using h.symm

/-- R160, R161, R177: a key skip faults on an index above 15, otherwise it is a skip. -/
theorem skipOnKey_cases (x : Reg) (down : Bool) (s : State) :
    (15 < s.v[x.val].toNat ∧ skipOnKey x down s = raiseFault .keyIndexOutOfRange 0 s) ∨
    (s.v[x.val].toNat ≤ 15 ∧
      skipOnKey x down s = skipIf (s.keys.getLsbD s.v[x.val].toNat == down) s) := by
  unfold skipOnKey
  simp only [State.getV]
  by_cases h : 15 < s.v[x.val].toNat
  · exact .inl ⟨h, by simp [h]⟩
  · exact .inr ⟨by omega, by simp [h]⟩

/-- R90, R95, R176: what a tick does after its step: count both timers down, or, after a fault, nothing. -/
theorem endTick_next {r : Result} (h : endTick r = .next t) :
    ∃ u, r = .next u ∧ (u.err.code = .noFault ∧ t = countdown u ∨ u.err.code ≠ .noFault ∧ t = u) := by
  cases r with
  | next u =>
    simp only [endTick] at h
    split at h
    · exact ⟨u, rfl, .inl ⟨‹_›, by simpa using h.symm⟩⟩
    · exact ⟨u, rfl, .inr ⟨‹_›, by simpa using h.symm⟩⟩
  | fault f => simp [endTick] at h
  | refused q => simp [endTick] at h

/-- R95: down by one, floored at 0. -/
theorem timerDown_toNat (b : Byte) : (timerDown b).toNat = b.toNat - 1 := by
  unfold timerDown
  split
  · rename_i h; subst h; rfl
  · rename_i h
    have : b.toNat ≠ 0 := fun h0 => h (BitVec.eq_of_toNat_eq h0)
    have := b.isLt
    simp [BitVec.toNat_sub]; omega

/-- R21: a flag that is a comparison, as VF holds it. -/
theorem flagByte_decide (p : Prop) [Decidable p] :
    (flagByte (decide p)).toNat = if p then 1 else 0 := by
  by_cases h : p <;> simp [flagByte, h]

/-- R21: a flag that is a bit, as VF holds it. -/
theorem flagByte_toNat (b : Bool) : (flagByte b).toNat = b.toNat := by cases b <;> rfl

/-! ## Register blocks -/

/-- R145: registers k, k+1, ... hold the bytes in turn, the others what they held. -/
theorem getElem_fillRegs (v : Vector Byte 16) (k : Nat) (bytes : List Byte) (j : Nat) (hj : j < 16) :
    (fillRegs v k bytes)[j] = if k ≤ j ∧ j < k + bytes.length then bytes.getD (j - k) 0 else v[j] := by
  induction bytes generalizing v k with
  | nil => simp [fillRegs]
  | cons b rest ih =>
    simp only [fillRegs, ih, List.length_cons]
    by_cases h : k = j
    · subst h; simp
    · by_cases h1 : k + 1 ≤ j ∧ j < k + 1 + rest.length
      · have h2 : k ≤ j ∧ j < k + (rest.length + 1) := by omega
        have h3 : j - k = (j - (k + 1)) + 1 := by omega
        simp [h1, h2, h3]
      · have h2 : ¬ (k ≤ j ∧ j < k + (rest.length + 1)) := by omega
        rw [if_neg h1, if_neg h2]
        exact Vector.getElem_setIfInBounds_ne hj h

@[simp] theorem length_regBlock (v : Vector Byte 16) (x : Reg) : (regBlock v x).length = x.val + 1 := by
  simp [regBlock]

/-- R144: byte k of the block is V[k]. -/
theorem getElem_regBlock (v : Vector Byte 16) (x : Reg) (k : Nat) (h : k < (regBlock v x).length) :
    (regBlock v x)[k] = v[k]'(by simp at h; omega) := by
  simp [regBlock]

/-! ## Keys -/

/-- R162: no key below `n` is down. -/
theorem highestKeyBelow_none (keys : BitVec 16) (n : Nat) (h : highestKeyBelow keys n = none) :
    ∀ j, j < n → keys.getLsbD j = false := by
  induction n with
  | zero => intro j hj; omega
  | succ k ih =>
    simp only [highestKeyBelow] at h
    split at h
    · simp at h
    · intro j hj
      rcases Nat.lt_succ_iff_lt_or_eq.1 hj with hj | rfl
      · exact ih h j hj
      · simpa using ‹¬ keys.getLsbD j = true›

/-- R162: the answer is down and every higher index below `n` is not. -/
theorem highestKeyBelow_some (keys : BitVec 16) (n k : Nat) (h : highestKeyBelow keys n = some k) :
    k < n ∧ keys.getLsbD k = true ∧ ∀ j, k < j → j < n → keys.getLsbD j = false := by
  induction n with
  | zero => simp [highestKeyBelow] at h
  | succ m ih =>
    simp only [highestKeyBelow] at h
    split at h
    · obtain rfl : m = k := by simpa using h
      exact ⟨by omega, ‹_›, fun j h1 h2 => by omega⟩
    · obtain ⟨h1, h2, h3⟩ := ih h
      refine ⟨by omega, h2, fun j hj1 hj2 => ?_⟩
      rcases Nat.lt_succ_iff_lt_or_eq.1 hj2 with hj | rfl
      · exact h3 j hj1 hj
      · simpa using ‹¬ keys.getLsbD j = true›

/-- R162: LD Vx, K either waits, with nothing changed, or takes the highest key that is down. -/
theorem execLdVxK_cases (x : Reg) (s : State) :
    (highestKey s.keys = none ∧ execLdVxK x s = .next s) ∨
    ∃ k, highestKey s.keys = some k ∧ execLdVxK x s = finish (s.setV x (BitVec.ofNat 8 k)) := by
  unfold execLdVxK
  cases h : highestKey s.keys with
  | none => exact .inl ⟨rfl, rfl⟩
  | some k => exact .inr ⟨k, rfl, rfl⟩

/-! ## The framebuffer -/

/-- R31: a cell after one cell is written. -/
theorem fbGet_fbSet (fb : Framebuffer) (r q : Fin 32) (c d : Fin 64) (b : Bool) :
    fbGet (fbSet fb r c b) q d = if r = q ∧ c = d then b else fbGet fb q d := by
  unfold fbGet fbSet
  by_cases hr : r = q
  · subst hr
    by_cases hc : c = d
    · subst hc; simp
    · have : c.val ≠ d.val := fun h => hc (Fin.ext h)
      simp [hc, this]
  · have : r.val ≠ q.val := fun h => hr (Fin.ext h)
    simp [hr, this]

/-- R151: every cell of a cleared framebuffer is off. -/
@[simp] theorem fbGet_fbClear (r : Fin 32) (c : Fin 64) : fbGet fbClear r c = false := by
  simp [fbGet, fbClear]

/-- R152: one set sprite bit inverts its cell and no other, and notes a collision if the cell was on. -/
theorem togglePixel_spec (p : Framebuffer × Bool) (t : Fin 32 × Fin 64) :
    (∀ q d, fbGet (togglePixel p t).1 q d = (fbGet p.1 q d ^^ decide (t = (q, d)))) ∧
    (togglePixel p t).2 = (p.2 || fbGet p.1 t.1 t.2) := by
  obtain ⟨r, c⟩ := t
  unfold togglePixel
  refine ⟨fun q d => ?_, ?_⟩
  · by_cases h : r = q ∧ c = d
    · obtain ⟨rfl, rfl⟩ := h
      cases fbGet p.1 r c <;> simp [fbGet_fbSet]
    · have h' : ¬ ((r, c) = (q, d)) := by simpa using h
      cases fbGet p.1 r c <;> simp [fbGet_fbSet, h, h']
  · cases fbGet p.1 r c <;> simp

end Sys2Proof.Machine
end

