-- ==== Sys2Proof/Laws/PerInstr.lean ====
section
/-! SUPPORT. Statements about all instructions, one lemma per constructor.
Family EncodeSelectsRow: the word of an instruction selects the instruction's own row of the opcode map (30_encoding.md
R74), whatever its operands. -/

namespace Sys2Proof.Laws

/-! ## Operand bits lie outside the masks (R71) -/

theorem nnn_under_mask (nnn : BitVec 12) : nnn.setWidth 16 &&& 0xF000#16 = 0 := by
  apply BitVec.eq_of_getLsbD_eq
  intro k hk
  have hm : ∀ j : Fin 16, (0xF000#16).getLsbD j.val = decide (12 ≤ j.val) := by decide
  have := hm ⟨k, hk⟩
  simp only [BitVec.getLsbD_and, BitVec.getLsbD_setWidth, this]
  by_cases h : 12 ≤ k
  · simp [BitVec.getLsbD_of_ge nnn k h]
  · simp [h]

theorem kk_under_mask (kk : Byte) : kk.setWidth 16 &&& 0xF000#16 = 0 := by
  apply BitVec.eq_of_getLsbD_eq
  intro k hk
  have hm : ∀ j : Fin 16, (0xF000#16).getLsbD j.val = decide (12 ≤ j.val) := by decide
  have := hm ⟨k, hk⟩
  simp only [BitVec.getLsbD_and, BitVec.getLsbD_setWidth, this]
  by_cases h : 12 ≤ k
  · simp [BitVec.getLsbD_of_ge kk k (by omega)]
  · simp [h]

theorem packX_under_masks : ∀ x : Reg, packX x &&& 0xF000#16 = 0 ∧ packX x &&& 0xF00F#16 = 0 ∧
    packX x &&& 0xF0FF#16 = 0 := by decide

theorem packY_under_masks : ∀ y : Reg, packY y &&& 0xF000#16 = 0 ∧ packY y &&& 0xF00F#16 = 0 := by decide

theorem n_under_mask : ∀ n : BitVec 4, n.setWidth 16 &&& 0xF000#16 = 0 := by decide

/-- A row is selected by its literal bits with operand bits that lie outside its mask. -/
theorem selects_of_under (o : Opcode) (f : Word) (h : f &&& opcodeMask o = 0) :
    opcodeSelects o (opcodeMatch o ||| f) = true := by
  have hd : (opcodeMatch o ||| f) &&& opcodeMask o = (opcodeMatch o &&& opcodeMask o) ||| (f &&& opcodeMask o) := by
    ext k; simp [Bool.and_or_distrib_right]
  simp [opcodeSelects, hd, h, opcodeMatch_under_mask]

/-- Operand bits in two fields. -/
theorem or_under {a b m : Word} (ha : a &&& m = 0) (hb : b &&& m = 0) : (a ||| b) &&& m = 0 := by
  have hd : (a ||| b) &&& m = (a &&& m) ||| (b &&& m) := by
    ext k; simp [Bool.and_or_distrib_right]
  simp [hd, ha, hb]

/-! ## Family EncodeSelectsRow -/

/-- The encoded word selects the instruction's own row. -/
def EncodeSelectsRow.Statement (i : Instr) : Prop := opcodeSelects (opcodeOf i) (encode i) = true

theorem EncodeSelectsRow.cls : Statement .cls :=
  selects_of_under _ _ (by decide)
theorem EncodeSelectsRow.ret : Statement .ret :=
  selects_of_under _ _ (by decide)
theorem EncodeSelectsRow.jp (nnn : BitVec 12) : Statement (.jp nnn) :=
  selects_of_under _ _ (nnn_under_mask nnn)
theorem EncodeSelectsRow.call (nnn : BitVec 12) : Statement (.call nnn) :=
  selects_of_under _ _ (nnn_under_mask nnn)
theorem EncodeSelectsRow.seByte (x : Reg) (kk : Byte) : Statement (.seByte x kk) :=
  selects_of_under _ _ (or_under (packX_under_masks x).1 (kk_under_mask kk))
theorem EncodeSelectsRow.sneByte (x : Reg) (kk : Byte) : Statement (.sneByte x kk) :=
  selects_of_under _ _ (or_under (packX_under_masks x).1 (kk_under_mask kk))
theorem EncodeSelectsRow.seReg (x y : Reg) : Statement (.seReg x y) :=
  selects_of_under _ _ (or_under (packX_under_masks x).2.1 (packY_under_masks y).2)
theorem EncodeSelectsRow.ldByte (x : Reg) (kk : Byte) : Statement (.ldByte x kk) :=
  selects_of_under _ _ (or_under (packX_under_masks x).1 (kk_under_mask kk))
theorem EncodeSelectsRow.addByte (x : Reg) (kk : Byte) : Statement (.addByte x kk) :=
  selects_of_under _ _ (or_under (packX_under_masks x).1 (kk_under_mask kk))
theorem EncodeSelectsRow.ldReg (x y : Reg) : Statement (.ldReg x y) :=
  selects_of_under _ _ (or_under (packX_under_masks x).2.1 (packY_under_masks y).2)
theorem EncodeSelectsRow.orReg (x y : Reg) : Statement (.orReg x y) :=
  selects_of_under _ _ (or_under (packX_under_masks x).2.1 (packY_under_masks y).2)
theorem EncodeSelectsRow.andReg (x y : Reg) : Statement (.andReg x y) :=
  selects_of_under _ _ (or_under (packX_under_masks x).2.1 (packY_under_masks y).2)
theorem EncodeSelectsRow.xorReg (x y : Reg) : Statement (.xorReg x y) :=
  selects_of_under _ _ (or_under (packX_under_masks x).2.1 (packY_under_masks y).2)
theorem EncodeSelectsRow.addReg (x y : Reg) : Statement (.addReg x y) :=
  selects_of_under _ _ (or_under (packX_under_masks x).2.1 (packY_under_masks y).2)
theorem EncodeSelectsRow.sub (x y : Reg) : Statement (.sub x y) :=
  selects_of_under _ _ (or_under (packX_under_masks x).2.1 (packY_under_masks y).2)
theorem EncodeSelectsRow.shr (x y : Reg) : Statement (.shr x y) :=
  selects_of_under _ _ (or_under (packX_under_masks x).2.1 (packY_under_masks y).2)
theorem EncodeSelectsRow.subn (x y : Reg) : Statement (.subn x y) :=
  selects_of_under _ _ (or_under (packX_under_masks x).2.1 (packY_under_masks y).2)
theorem EncodeSelectsRow.shl (x y : Reg) : Statement (.shl x y) :=
  selects_of_under _ _ (or_under (packX_under_masks x).2.1 (packY_under_masks y).2)
theorem EncodeSelectsRow.sneReg (x y : Reg) : Statement (.sneReg x y) :=
  selects_of_under _ _ (or_under (packX_under_masks x).2.1 (packY_under_masks y).2)
theorem EncodeSelectsRow.ldI (nnn : BitVec 12) : Statement (.ldI nnn) :=
  selects_of_under _ _ (nnn_under_mask nnn)
theorem EncodeSelectsRow.jpV0 (nnn : BitVec 12) : Statement (.jpV0 nnn) :=
  selects_of_under _ _ (nnn_under_mask nnn)
theorem EncodeSelectsRow.rnd (x : Reg) (kk : Byte) : Statement (.rnd x kk) :=
  selects_of_under _ _ (or_under (packX_under_masks x).1 (kk_under_mask kk))
theorem EncodeSelectsRow.drw (x y : Reg) (n : BitVec 4) : Statement (.drw x y n) :=
  selects_of_under _ _
    (or_under (or_under (packX_under_masks x).1 (packY_under_masks y).1) (n_under_mask n))
theorem EncodeSelectsRow.skp (x : Reg) : Statement (.skp x) :=
  selects_of_under _ _ (packX_under_masks x).2.2
theorem EncodeSelectsRow.sknp (x : Reg) : Statement (.sknp x) :=
  selects_of_under _ _ (packX_under_masks x).2.2
theorem EncodeSelectsRow.ldVxDt (x : Reg) : Statement (.ldVxDt x) :=
  selects_of_under _ _ (packX_under_masks x).2.2
theorem EncodeSelectsRow.ldVxK (x : Reg) : Statement (.ldVxK x) :=
  selects_of_under _ _ (packX_under_masks x).2.2
theorem EncodeSelectsRow.ldDtVx (x : Reg) : Statement (.ldDtVx x) :=
  selects_of_under _ _ (packX_under_masks x).2.2
theorem EncodeSelectsRow.ldStVx (x : Reg) : Statement (.ldStVx x) :=
  selects_of_under _ _ (packX_under_masks x).2.2
theorem EncodeSelectsRow.addI (x : Reg) : Statement (.addI x) :=
  selects_of_under _ _ (packX_under_masks x).2.2
theorem EncodeSelectsRow.ldF (x : Reg) : Statement (.ldF x) :=
  selects_of_under _ _ (packX_under_masks x).2.2
theorem EncodeSelectsRow.ldB (x : Reg) : Statement (.ldB x) :=
  selects_of_under _ _ (packX_under_masks x).2.2
theorem EncodeSelectsRow.storeRegs (x : Reg) : Statement (.storeRegs x) :=
  selects_of_under _ _ (packX_under_masks x).2.2
theorem EncodeSelectsRow.loadRegs (x : Reg) : Statement (.loadRegs x) :=
  selects_of_under _ _ (packX_under_masks x).2.2

end Sys2Proof.Laws
end

