-- ==== Sys2Proof/Laws/Step.lean ====
section
/-! SUPPORT. What a tick can do, said once (40_step_cycle.md R90 to R96). -/

namespace Sys2Proof.Machine

variable {s t : State}

/-- R91: a fetch succeeds exactly up to PC = 4094. -/
theorem fetchWord_none_iff : fetchWord s = none ↔ 4094 < s.pc.toNat := by
  unfold fetchWord
  split <;> simp_all

theorem fetchWord_some {w : Word} (h : fetchWord s = some w) :
    s.pc.toNat ≤ 4094 ∧ w = wordOfBytes (s.mem.read s.pc.toNat) (s.mem.read (s.pc.toNat + 1)) := by
  unfold fetchWord at h
  split at h
  · simp at h
  · exact ⟨by omega, by simpa using h.symm⟩

/-- The fetch looks at PC and memory only. -/
theorem fetchWord_congr (hp : t.pc = s.pc) (hm : t.mem = s.mem) : fetchWord t = fetchWord s := by
  simp [fetchWord, hp, hm]

theorem fetchInstr_some {i : Instr} (h : fetchInstr s = some i) :
    ∃ w, fetchWord s = some w ∧ decodeWord w = some i := by
  simpa [fetchInstr, Option.bind_eq_some_iff] using h

/-- Every way a tick can answer a next state: halted and nothing changes (R96); the fetch faults (R171);
the word is illegal (R172); or the instruction at PC is executed, and then the timers count down unless
it raised a fault (R95, R176). -/
theorem step_cases (h : step s = .next t) :
    (s.err.code ≠ .noFault ∧ t = s) ∨
    (s.err.code = .noFault ∧ fetchWord s = none ∧
      t = { s with err := { code := .fetchOutOfBounds, info := 0 } }) ∨
    (∃ w, s.err.code = .noFault ∧ fetchWord s = some w ∧ decodeWord w = none ∧
      t = { s with err := { code := .unknownOpcode, info := w } }) ∨
    (∃ i u, s.err.code = .noFault ∧ fetchInstr s = some i ∧ exec i s = .next u ∧
      (u.err.code = .noFault ∧ t = countdown u ∨ u.err.code ≠ .noFault ∧ t = u)) := by
  unfold step at h
  split at h
  · rename_i hr
    split at h
    · rename_i hf
      exact .inr (.inl ⟨hr, hf, raiseFault_next h⟩)
    · rename_i w hf
      split at h
      · rename_i hd
        exact .inr (.inr (.inl ⟨w, hr, hf, hd, raiseFault_next h⟩))
      · rename_i i hd
        obtain ⟨u, hu, ht⟩ := endTick_next h
        exact .inr (.inr (.inr ⟨i, u, hr, by simp [fetchInstr, hf, hd], hu, ht⟩))
  · rename_i hr
    exact .inl ⟨hr, by simpa using h.symm⟩

end Sys2Proof.Machine
end

