-- ==== Sys2Proof/Tests/Slice0.lean ====
section
/-! SUPPORT. The model's own tests. Expected results come from the worked examples of 95_test_vectors.md (named by
their ids) or from the encodings of 30_encoding.md R74; witnesses show that the hypotheses of each
statement can be met, at the boundary values where clauses meet. -/

namespace Sys2Proof.Tests

open Sys2Proof Sys2Proof.Machine

/-! ## Helpers -/

/-- The next state of a result, if there is one. -/
def nextOf (r : Result) : Option State :=
  match r with
  | .next t => some t
  | .fault _ => none
  | .refused _ => none

/-- The reset state with some registers set. -/
def regs (l : List (Reg × Byte)) : State := l.foldl (fun s p => s.setV p.1 p.2) State.reset

/-- One tick that runs the given word (95_test_vectors.md's convention). -/
def tick (s : State) (w : Nat) : Option State := nextOf (step (s.withFetchWord 16 w))

/-- A state with bytes stored at an address. -/
def bytesAt (s : State) (a : Nat) (l : List Byte) : State := s.setMem (s.mem.writeBytes a l)

/-- The session right after reset under the default FONT. -/
def ready : Session := { core := State.reset, font := defaultFont, stage := .fresh }

theorem ready_eq : Session.initial defaultFont = ready := by
  simp only [Session.initial, State.resetWith_defaultFont, ready]

theorem ready_inv : ready.Inv := by
  refine ⟨by decide, .inl rfl, fun _ => rfl, fun _ => ?_⟩
  rw [show ready.font = defaultFont from rfl, State.resetWith_defaultFont]
  rfl

/-! ## WellFormed: each check refuses an operand outside its field (R72) -/

theorem test_regOk_refuses_16 : regOk 16 = false ∧ regOk 15 = true := by decide
theorem test_addrOk_refuses_4096 : addrOk 4096 = false ∧ addrOk 4095 = true := by decide
theorem test_byteOk_refuses_256 : byteOk 256 = false ∧ byteOk 255 = true := by decide
theorem test_rowsOk_refuses_16 : rowsOk 16 = false ∧ rowsOk 15 = true := by decide

/-! ## Decoding: a word of every row, written out from R74 -/

theorem test_decode_control :
    decodeWord 0x00EE = some .ret ∧ decodeWord 0x1234 = some (.jp 0x234) ∧
    decodeWord 0x2FFE = some (.call 0xFFE) ∧ decodeWord 0x332A = some (.seByte 3 0x2A) ∧
    decodeWord 0x4F01 = some (.sneByte 15 0x01) ∧ decodeWord 0x5120 = some (.seReg 1 2) ∧
    decodeWord 0x9AB0 = some (.sneReg 10 11) ∧ decodeWord 0xB300 = some (.jpV0 0x300) := by decide
theorem test_decode_loads :
    decodeWord 0x6A2C = some (.ldByte 10 0x2C) ∧ decodeWord 0x71FF = some (.addByte 1 0xFF) ∧
    decodeWord 0x8120 = some (.ldReg 1 2) ∧ decodeWord 0xC30F = some (.rnd 3 0x0F) := by decide
theorem test_decode_alu :
    decodeWord 0x8121 = some (.orReg 1 2) ∧ decodeWord 0x8122 = some (.andReg 1 2) ∧
    decodeWord 0x8F23 = some (.xorReg 15 2) ∧ decodeWord 0x81F4 = some (.addReg 1 15) ∧
    decodeWord 0x8125 = some (.sub 1 2) ∧ decodeWord 0x81F6 = some (.shr 1 15) ∧
    decodeWord 0x8127 = some (.subn 1 2) ∧ decodeWord 0x810E = some (.shl 1 0) := by decide
theorem test_decode_index :
    decodeWord 0xA2F0 = some (.ldI 0x2F0) ∧ decodeWord 0xF21E = some (.addI 2) ∧
    decodeWord 0xF429 = some (.ldF 4) ∧ decodeWord 0xF333 = some (.ldB 3) ∧
    decodeWord 0xF255 = some (.storeRegs 2) ∧ decodeWord 0xFF65 = some (.loadRegs 15) := by decide
theorem test_decode_display :
    decodeWord 0x00E0 = some .cls ∧ decodeWord 0xD12E = some (.drw 1 2 14) := by decide
theorem test_decode_keypad_timers :
    decodeWord 0xE29E = some (.skp 2) ∧ decodeWord 0xE2A1 = some (.sknp 2) ∧
    decodeWord 0xF307 = some (.ldVxDt 3) ∧ decodeWord 0xF40A = some (.ldVxK 4) ∧
    decodeWord 0xF315 = some (.ldDtVx 3) ∧ decodeWord 0xF318 = some (.ldStVx 3) := by decide
/-- The illegal words that 95_test_vectors.md lists. -/
theorem test_decode_illegal :
    [0x0000, 0x00E1, 0x00EF, 0x0123, 0x5121, 0x9001, 0x9121, 0x8008, 0x800F, 0x8128, 0xE000, 0xE09F,
      0xE1A2, 0xF000, 0xF066, 0xF130, 0xFF75, 0xFFFF].all (fun w => (decodeWord w).isNone) = true := by
  decide
theorem test_decode_bytes : decode [0xD1, 0x2E, 0x55] = .ok (.drw 1 2 14, [0x55]) := by rfl
theorem test_decode_truncated : decode [0xD1] = .error .truncated := by rfl
theorem test_encode_words :
    encode (.drw 1 2 14) = 0xD12E ∧ encode (.shl 1 0) = 0x810E ∧ encode (.loadRegs 15) = 0xFF65 := by
  decide

/-! ## One tick per instruction -/

/-- F7 -/
theorem test_ret : (tick { State.reset with sp := 1, pc := 0x300, stack := State.reset.stack.set 0 0x202 } 0x00EE).map
    (fun t => (t.pc, t.sp, t.stack[0])) = some (0x202, 0, 0x202) := by decide
/-- F8 -/
theorem test_ret_underflow : (tick State.reset 0x00EE).map (fun t => (t.err.code, t.pc)) =
    some (.stackUnderflow, 0x200) := by decide
/-- F1 -/
theorem test_jp : (tick State.reset 0x1234).map (fun t => t.pc) = some 0x234 := by decide
/-- F4 -/
theorem test_call : (tick { State.reset with sp := 15 } 0x2300).map (fun t => (t.stack[15], t.sp, t.pc)) =
    some (0x202, 16, 0x300) := by decide
/-- F5 -/
theorem test_call_overflow : (tick { State.reset with sp := 16, dt := 9 } 0x2300).map
    (fun t => (t.err.code, t.sp, t.pc, t.dt)) = some (.stackOverflow, 16, 0x200, 9) := by decide
/-- F9, F10 -/
theorem test_se_byte : (tick (regs [(3, 0x2A)]) 0x332A).map (fun t => t.pc) = some 0x204 ∧
    (tick (regs [(3, 0x2B)]) 0x332A).map (fun t => t.pc) = some 0x202 := by decide
/-- F12, F13 -/
theorem test_sne_byte : (tick (regs [(3, 0x2A)]) 0x432A).map (fun t => t.pc) = some 0x202 ∧
    (tick State.reset 0x432A).map (fun t => t.pc) = some 0x204 := by decide
/-- F14 -/
theorem test_se_reg : (tick (regs [(1, 7), (2, 7)]) 0x5120).map (fun t => t.pc) = some 0x204 := by decide
/-- F16 -/
theorem test_sne_reg : (tick (regs [(1, 7), (2, 8)]) 0x9120).map (fun t => t.pc) = some 0x204 := by decide
/-- F19 -/
theorem test_jp_v0 : (tick (regs [(0, 0xFF)]) 0xBFFF).map (fun t => (t.pc, t.v[15])) =
    some (0x10FE, 0) := by decide
/-- A2 -/
theorem test_ld_byte : (tick State.reset 0x6F07).map (fun t => t.v[15]) = some 7 := by decide
/-- A3 -/
theorem test_add_byte : (tick (regs [(1, 0xFE)]) 0x7105).map (fun t => (t.v[1], t.v[15])) =
    some (3, 0) := by decide
/-- A7 -/
theorem test_ld_reg : (tick (regs [(2, 0x55)]) 0x8120).map (fun t => (t.v[1], t.v[2])) =
    some (0x55, 0x55) := by decide
/-- A8 -/
theorem test_or : (tick (regs [(1, 0xF0), (2, 0x0F), (15, 1)]) 0x8121).map (fun t => (t.v[1], t.v[15])) =
    some (0xFF, 1) := by decide
/-- A9 -/
theorem test_and : (tick (regs [(1, 0xF3), (2, 0x3C)]) 0x8122).map (fun t => t.v[1]) = some 0x30 := by
  decide
/-- A11 -/
theorem test_xor : (tick (regs [(2, 0x0F), (15, 0xFF)]) 0x8F23).map (fun t => t.v[15]) = some 0xF0 := by
  decide
/-- S1: the operand is the old VF. -/
theorem test_add_y15 : (tick (regs [(1, 0xFF), (15, 1)]) 0x81F4).map (fun t => (t.v[1], t.v[15])) =
    some (0, 1) := by decide
/-- A14: the result is written last. -/
theorem test_add_x15 : (tick (regs [(1, 0x80), (15, 0x80)]) 0x8F14).map (fun t => (t.v[1], t.v[15])) =
    some (0x80, 0) := by decide
/-- A16: strict at equality. -/
theorem test_sub_equal : (tick (regs [(1, 9), (15, 1)]) 0x8115).map (fun t => (t.v[1], t.v[15])) =
    some (0, 0) := by decide
/-- A17 -/
theorem test_sub_x15 : (tick (regs [(1, 3), (15, 5)]) 0x8F15).map (fun t => (t.v[1], t.v[15])) =
    some (3, 2) := by decide
/-- A18: y is ignored. -/
theorem test_shr : (tick (regs [(1, 5), (15, 0xAA)]) 0x81F6).map (fun t => (t.v[1], t.v[15])) =
    some (2, 1) := by decide
/-- A23 -/
theorem test_subn : (tick (regs [(1, 0x0A), (2, 5)]) 0x8127).map (fun t => (t.v[1], t.v[15])) =
    some (0xFB, 0) := by decide
/-- A27 -/
theorem test_shl_x15 : (tick (regs [(15, 0x81)]) 0x8FFE).map (fun t => t.v[15]) = some 2 := by decide
/-- A28 -/
theorem test_rnd : (nextOf (maskedRandom 3 0x0F 0xB7 State.reset)).map (fun t => t.v[3]) = some 7 := by
  decide
/-- R98: the byte is consumed. -/
theorem test_rnd_draws : (tick State.reset 0xC30F).map (fun t => t.rndDraws) = some 1 := by decide
/-- I1 -/
theorem test_ld_i : (tick State.reset 0xA123).map (fun t => t.i) = some 0x123 := by decide
/-- I4, I5 -/
theorem test_add_i : (tick { regs [(2, 1)] with i := 0xFFF } 0xF21E).map (fun t => (t.i, t.v[15])) =
      some (0x1000, 1) ∧
    (tick { regs [(2, 1)] with i := 0xFFFF } 0xF21E).map (fun t => (t.i, t.v[15])) = some (0, 1) := by
  decide
/-- I10 -/
theorem test_ld_f : (tick (regs [(4, 0xFF)]) 0xF429).map (fun t => t.i) = some 0x4FB := by decide
/-- I14 -/
theorem test_ld_b : (tick { regs [(3, 255)] with i := 0xFFD } 0xF333).map
    (fun t => (t.mem.readBytes 0xFFD 3, t.i)) = some ([2, 5, 5], 0xFFD) := by decide
/-- I15 -/
theorem test_ld_b_fault : (tick { regs [(3, 255)] with i := 0xFFE } 0xF333).map
    (fun t => (t.err.code, t.mem.readBytes 0xFFE 2)) = some (.dataOutOfBounds, [0, 0]) := by decide
/-- I16 -/
theorem test_store_regs : (tick { regs [(0, 0x11), (1, 0x22), (2, 0x33), (3, 0x44)] with i := 0x400 } 0xF255).map
    (fun t => (t.mem.readBytes 0x400 4, t.i)) = some ([0x11, 0x22, 0x33, 0], 0x403) := by decide
/-- I19: the font is ordinary memory. -/
theorem test_store_font : (tick (regs [(0, 0xAA)]) 0xF055).map (fun t => (t.mem.readBytes 0 2, t.i)) =
    some ([0xAA, 0x90], 1) := by decide
/-- I21 -/
theorem test_load_regs : (tick (bytesAt { regs [(2, 0x99)] with i := 0x400 } 0x400 [0xAA, 0xBB, 0xCC]) 0xF165).map
    (fun t => (t.v[0], t.v[1], t.v[2], t.i)) = some (0xAA, 0xBB, 0x99, 0x402) := by decide
/-- I24 -/
theorem test_load_regs_fault : (tick { regs [(0, 0x77)] with i := 0x1000 } 0xF065).map
    (fun t => (t.err.code, t.v[0], t.i)) = some (.dataOutOfBounds, 0x77, 0x1000) := by decide
/-- D1 -/
theorem test_cls : (tick { regs [(15, 1)] with fb := fbSet fbClear 31 63 true } 0x00E0).map
    (fun t => (fbGet t.fb 31 63, t.redraw, t.v[15])) = some (false, true, 1) := by decide
/-- D8: clamped at the right edge, a sprite collides with itself. -/
theorem test_drw_clamp : (tick (bytesAt { regs [(1, 60)] with i := 0x300 } 0x300 [0xF8]) 0xD121).map
    (fun t => ([fbGet t.fb 0 60, fbGet t.fb 0 61, fbGet t.fb 0 62, fbGet t.fb 0 63], t.v[15], t.redraw)) =
    some ([true, true, true, false], 1, true) := by decide
/-- D11: x = 15 uses the old VF. -/
theorem test_drw_x15 : (tick (bytesAt { regs [(15, 1), (1, 2)] with i := 0x300 } 0x300 [0x80]) 0xDF11).map
    (fun t => (fbGet t.fb 2 1, t.v[15])) = some (true, 0) := by decide
/-- K3, K4 -/
theorem test_skp : (tick { regs [(2, 15)] with keys := 0x8000 } 0xE29E).map (fun t => t.pc) = some 0x204 ∧
    (tick { regs [(2, 16)] with keys := 0xFFFF } 0xE29E).map (fun t => (t.err.code, t.pc)) =
      some (.keyIndexOutOfRange, 0x200) := by decide
/-- K7, K8 -/
theorem test_sknp : (tick { regs [(2, 0)] with keys := 0x0001 } 0xE2A1).map (fun t => t.pc) = some 0x202 ∧
    (tick { regs [(2, 5)] with keys := 0 } 0xE2A1).map (fun t => t.pc) = some 0x204 := by decide
/-- K10: waiting is a successful step. -/
theorem test_key_wait : (tick { regs [(4, 9)] with dt := 3, st := 1 } 0xF40A).map
    (fun t => (t.pc, t.v[4], t.dt, t.st)) = some (0x200, 9, 2, 0) := by decide
/-- S10: the highest index wins. -/
theorem test_key_highest : (tick { State.reset with keys := 0x0088 } 0xF40A).map (fun t => (t.v[4], t.pc)) =
    some (7, 0x202) := by decide
/-- K14 -/
theorem test_ld_vx_dt : (tick { State.reset with dt := 0x10 } 0xF307).map (fun t => (t.v[3], t.dt)) =
    some (0x10, 0x0F) := by decide
/-- K17, K19 -/
theorem test_ld_dt_vx : (tick (regs [(3, 0x3C)]) 0xF315).map (fun t => t.dt) = some 0x3B ∧
    (tick { regs [(0, 1)] with dt := 9 } 0xF015).map (fun t => t.dt) = some 0 := by decide
/-- K21 -/
theorem test_ld_st_vx : (tick (regs [(0, 2)]) 0xF018).map (fun t => t.st) = some 1 := by decide

/-! ## The tick -/

/-- T8, R203: with nothing loaded the first tick raises UnknownOpcode(0). -/
theorem test_no_program : step State.reset =
    .next { State.reset with err := { code := .unknownOpcode, info := 0 } } := by rfl
/-- T1: the last word can be fetched, one further cannot. -/
theorem test_fetch_edge : (tick { State.reset with pc := 0xFFE } 0x6001).map (fun t => (t.v[0], t.pc)) =
      some (1, 0x1000) ∧
    (nextOf (step { State.reset with pc := 0xFFF })).map (fun t => (t.err.code, t.pc)) =
      some (.fetchOutOfBounds, 0xFFF) := by decide
/-- T3: no countdown on a fault. -/
theorem test_fault_no_countdown : (tick { State.reset with dt := 5, st := 2 } 0x0000).map
    (fun t => (t.err.code, t.dt, t.st)) = some (.unknownOpcode, 5, 2) := by decide
/-- R178 -/
theorem test_fault_numbers : errCodeNumber .unknownOpcode = 2 ∧ errCodeNumber .keyIndexOutOfRange = 6 := by
  decide
/-- H4: a one-byte image. -/
theorem test_load_one_byte : (match Session.moves [.load [0x12], .tick] ready with
    | .next g => some (g.core.pc, g.core.err.code)
    | .fault _ => none
    | .refused _ => none) = some (0x200, .noFault) := by decide
/-- R61, log 8: a load after the first tick stops by name. -/
theorem test_load_too_late :
    Session.moves [.tick, .load [0x12]] ready = .fault .loadAfterFirstTick := by rfl
/-- R211, D18: the load happens once. -/
theorem test_load_twice : Session.moves [.load [0x12], .load [0x34]] ready = .fault .loadTwice := by rfl
/-- S8: memory[50..55] is the glyph of A (its bytes are G3). -/
theorem test_font_A : State.reset.mem.readBytes 50 5 = [0xF0, 0x90, 0xF0, 0x90, 0x90] := by decide
/-- R27, log 10: under the default FONT reset memory lists nothing. -/
theorem test_default_font : (State.resetWith defaultFont).mem = [] := by
  rw [State.resetWith_defaultFont]; rfl
/-- R8, R27: another FONT stands at 0 to 79, and no further. -/
theorem test_other_font : (State.resetWith (Vector.replicate 80 7)).mem.readBytes 79 2 = [7, 0] := by decide
/-- D21, log 18: a JP to itself parks the machine. -/
theorem test_parked : (State.reset.withFetchWord 16 0x1200).parked := ⟨rfl, 0x200, by decide, by decide⟩
theorem test_safe_run : SafeRun 2 (State.reset.withFetchWord 16 0x1200) := ⟨_, rfl, by decide⟩

/-! ## Witnesses: states and operands that meet each statement's hypotheses -/

/-- A state about to run a word. -/
abbrev at512 (w : Nat) : State := State.reset.withFetchWord 16 w

theorem witness_DecodeOfEncode : (Instr.drw 1 2 3).wellFormed = true := by decide
theorem witness_EncodeOfDecode : decodeWord 0x8126 = some (.shr 1 2) := by decide
theorem witness_OpcodeRowsDisjoint : opcodeSelects .jp 0x1234 = true := by decide
theorem witness_FetchIsBigEndianOrFaults :
    ({ State.reset with pc := 4094 } : State).pc.toNat ≤ 4094 ∧
    4094 < ({ State.reset with pc := 4095 } : State).pc.toNat ∧
    ({ State.reset with pc := 4095 } : State).running := by decide
theorem witness_IllegalWordRaisesUnknownOpcode :
    State.reset.running ∧ fetchWord State.reset = some 0 ∧ decodeWord 0 = none := by decide
theorem witness_StepRunsTheDecodedInstruction :
    ∃ t, (at512 0x6105).running ∧ (at512 0x6105).pc.toNat ≤ 4094 ∧ (Instr.ldByte 1 5).wellFormed = true ∧
      decode ((at512 0x6105).mem.read (at512 0x6105).pc.toNat ::
        (at512 0x6105).mem.read ((at512 0x6105).pc.toNat + 1) :: []) = .ok (.ldByte 1 5, []) ∧
      exec (.ldByte 1 5) (at512 0x6105) = .next t := ⟨_, by decide, by decide, by decide, rfl, rfl⟩
theorem witness_TimersCountDown_success :
    ∃ t, (at512 0xF315).running ∧ fetchInstr (at512 0xF315) = some (.ldDtVx 3) ∧
      step (at512 0xF315) = .next t ∧ t.running := ⟨_, by decide, by decide, rfl, by decide⟩
theorem witness_TimersCountDown_fault :
    ∃ t, (at512 0x00EE).running ∧ fetchInstr (at512 0x00EE) = some .ret ∧
      step (at512 0x00EE) = .next t ∧ t.halted := ⟨_, by decide, by decide, rfl, by decide⟩
theorem witness_ProgramCounterTable_success :
    ∃ t, State.reset.running ∧ exec (.jp 0x234) State.reset = .next t ∧ t.running :=
  ⟨_, by decide, rfl, by decide⟩
theorem witness_ProgramCounterTable_fault :
    ∃ t, State.reset.running ∧ exec .ret State.reset = .next t ∧ t.halted :=
  ⟨_, by decide, rfl, by decide⟩
theorem witness_HaltedTickChangesNothing :
    ({ State.reset with err := { code := .stackOverflow, info := 0 } } : State).halted := by decide
theorem witness_FaultsArePrecise :
    ∃ t, State.reset.running ∧ step State.reset = .next t ∧ t.halted ∧ t.err.code = .unknownOpcode :=
  ⟨_, by decide, rfl, by decide, by decide⟩
theorem witness_FaultsArePrecise_other :
    ∃ t, (at512 0x00EE).running ∧ step (at512 0x00EE) = .next t ∧ t.halted ∧
      t.err.code ≠ .unknownOpcode := ⟨_, by decide, rfl, by decide, by decide⟩
theorem witness_ExecuteFaultsExactly :
    State.reset.running ∧ executeFault .ret State.reset ≠ .noFault := by decide
theorem witness_CallPushesOrOverflows :
    ({ State.reset with sp := 15 } : State).sp.val < 16 ∧
    ({ State.reset with sp := 16 } : State).sp.val = 16 := by decide
theorem witness_RetPopsOrUnderflows :
    ({ State.reset with sp := 16 } : State).sp.val = (15 : Fin 16).val + 1 ∧
    ({ State.reset with sp := 1 } : State).sp.val = (0 : Fin 16).val + 1 ∧
    State.reset.sp.val = 0 := by decide
theorem witness_CallThenReturnRoundTrip :
    (bytesAt (at512 0x2300) 0x300 [0x00, 0xEE]).running ∧
    (bytesAt (at512 0x2300) 0x300 [0x00, 0xEE]).sp.val < 16 ∧ (0x300 : BitVec 12).toNat ≤ 4094 ∧
    fetchInstr (bytesAt (at512 0x2300) 0x300 [0x00, 0xEE]) = some (.call 0x300) ∧
    decodeWord (wordOfBytes ((bytesAt (at512 0x2300) 0x300 [0x00, 0xEE]).mem.read (0x300 : BitVec 12).toNat)
      ((bytesAt (at512 0x2300) 0x300 [0x00, 0xEE]).mem.read ((0x300 : BitVec 12).toNat + 1))) =
      some .ret := by decide
theorem witness_BcdStore :
    dataAddr { State.reset with i := 4093 } 2 ≤ 4095 ∧
    4095 < dataAddr { State.reset with i := 4094 } 2 := by decide
theorem witness_BlockStore_BlockLoad :
    dataAddr { State.reset with i := 4080 } (15 : Reg).val ≤ 4095 ∧
    4095 < dataAddr { State.reset with i := 4081 } (15 : Reg).val := by decide
theorem witness_BlockStoreThenLoad :
    ∃ t, State.reset.running ∧ exec (.storeRegs 15) State.reset = .next t ∧ t.running :=
  ⟨_, by decide, rfl, by decide⟩
theorem witness_StoreIsSeenByNextFetch :
    ∃ t, ({ at512 0xF155 with i := 0x202 } : State).running ∧ 1 ≤ (1 : Reg).val ∧
      fetchInstr { at512 0xF155 with i := 0x202 } = some (.storeRegs 1) ∧
      dataAddr { at512 0xF155 with i := 0x202 } 0 = ({ at512 0xF155 with i := 0x202 } : State).pc.toNat + 2 ∧
      dataAddr { at512 0xF155 with i := 0x202 } (1 : Reg).val ≤ 4095 ∧
      step { at512 0xF155 with i := 0x202 } = .next t :=
  ⟨_, by decide, by decide, by decide, by decide, by decide, rfl⟩
theorem witness_DrawClosedForm :
    (0 : BitVec 4) = 0 ∧
    ({ State.reset with i := 4095 } : State).i.toNat + (1 : BitVec 4).toNat - 1 ≤ 4095 := by decide
theorem witness_CoordinatesClamp :
    (bytesAt { regs [(1, 200), (2, 40)] with i := 4095 } 4095 [0x80]).i.toNat ≤ 4095 ∧
    (bytesAt { regs [(1, 200), (2, 40)] with i := 4095 } 4095 [0x80]).mem.read
      (bytesAt { regs [(1, 200), (2, 40)] with i := 4095 } 4095 [0x80]).i.toNat = 0x80 ∧
    (∀ r c, fbGet (bytesAt { regs [(1, 200), (2, 40)] with i := 4095 } 4095 [0x80]).fb r c = false) :=
  ⟨by decide, by decide, fun r c => fbGet_fbClear r c⟩
theorem witness_FullSpriteOnDarkScreen :
    ∃ t, (bytesAt { regs [(1, 56), (2, 30)] with i := 4094 } 4094 [0xFF, 0xFF]).running ∧
      (∀ r c, fbGet (bytesAt { regs [(1, 56), (2, 30)] with i := 4094 } 4094 [0xFF, 0xFF]).fb r c = false) ∧
      (∀ k, k < (2 : BitVec 4).toNat →
        (bytesAt { regs [(1, 56), (2, 30)] with i := 4094 } 4094 [0xFF, 0xFF]).mem.read (4094 + k) = 0xFF) ∧
      (bytesAt { regs [(1, 56), (2, 30)] with i := 4094 } 4094 [0xFF, 0xFF]).v[1].toNat ≤ 56 ∧
      (bytesAt { regs [(1, 56), (2, 30)] with i := 4094 } 4094 [0xFF, 0xFF]).v[2].toNat + 2 ≤ 32 ∧
      exec (.drw 1 2 2) (bytesAt { regs [(1, 56), (2, 30)] with i := 4094 } 4094 [0xFF, 0xFF]) = .next t ∧
      t.running :=
  ⟨_, by decide, fun r c => fbGet_fbClear r c, by decide, by decide, by decide, rfl, by decide⟩
theorem witness_DrawingTwiceRestores :
    ∃ t u, State.reset.running ∧ exec (.drw 0 0 5) State.reset = .next t ∧ t.running ∧
      exec (.drw 0 0 5) { t with v := State.reset.v } = .next u ∧
      (∀ r c, fbGet State.reset.fb r c = false) ∧
      (∃ k, k < (5 : BitVec 4).toNat ∧ State.reset.mem.read (State.reset.i.toNat + k) ≠ 0) :=
  ⟨_, _, by decide, rfl, by decide, rfl, fun r c => fbGet_fbClear r c, 0, by decide, by decide⟩
theorem witness_RedrawFlag :
    ∃ t u, State.reset.running ∧ exec (.drw 0 0 5) State.reset = .next t ∧ t.err.code = .noFault ∧
      exec (.drw 0 0 5) { State.reset with i := 4095 } = .next u ∧ u.err.code ≠ .noFault :=
  ⟨_, _, by decide, rfl, by decide, rfl, by decide⟩
theorem witness_KeySkips :
    (regs [(2, 15)]).v[2].toNat ≤ 15 ∧ 15 < (regs [(2, 16)]).v[2].toNat := by decide
theorem witness_KeyWait :
    State.reset.keys = 0 ∧ ({ State.reset with keys := 0x8000 } : State).keys ≠ 0 := by decide
theorem witness_RegisterFrame :
    ∃ t, exec (.addReg 1 2) State.reset = .next t ∧ ¬ writesReg (.addReg 1 2) 14 :=
  ⟨_, rfl, by simp [writesReg]⟩
theorem witness_MemoryFrame :
    ∃ t, exec (.ldB 3) State.reset = .next t ∧ ¬ storesTo (.ldB 3) State.reset 3 :=
  ⟨_, rfl, by show ¬ (3 = 0 ∨ 3 = 1 ∨ 3 = 2); decide⟩
theorem witness_AccessSummary : ∃ t, exec (.call 0x300) State.reset = .next t := ⟨_, rfl⟩
theorem witness_StepKeepsInvariant :
    ∃ t, ({ at512 0xBFFF with sp := 16, stack := Vector.replicate 16 4096 } : State).Inv ∧
      step { at512 0xBFFF with sp := 16, stack := Vector.replicate 16 4096 } = .next t :=
  ⟨_, by decide, rfl⟩
theorem witness_StepKeepsFaultExplained :
    ∃ t, (at512 0x00EE).FaultExplained ∧ step (at512 0x00EE) = .next t := ⟨_, .inl rfl, rfl⟩
theorem witness_HostMovesKeepInvariant :
    ∃ g, ready.Inv ∧
      Session.moves [.load [0xF4, 0x0A], .setKeys 0x20, .tick, .clearRedraw, .tick, .reset] ready =
        .next g := ⟨_, ready_inv, rfl⟩
theorem witness_CanonicalMemoryIsUnique :
    Memory.wf [(0, 0xAA), (4095, 1)] = true ∧
    (∀ a, Memory.read [(0, 0xAA), (4095, 1)] a = Memory.read [(0, 0xAA), (4095, 1)] a) :=
  ⟨by decide, fun _ => rfl⟩
theorem witness_PoppedEntriesUnobservable :
    ∃ t, (at512 0x2300).sameLiveStack { at512 0x2300 with stack := Vector.replicate 16 7 } ∧
      step (at512 0x2300) = .next t := ⟨_, ⟨rfl, by decide, rfl⟩, rfl⟩
theorem witness_KeysReadByKeyInstructionsOnly :
    ∃ t, (∀ x, fetchInstr (at512 0x1234) ≠ some (.skp x) ∧ fetchInstr (at512 0x1234) ≠ some (.sknp x) ∧
      fetchInstr (at512 0x1234) ≠ some (.ldVxK x)) ∧ step (at512 0x1234) = .next t :=
  ⟨_, by decide, rfl⟩
theorem witness_SoundTimerUnobservable : ∃ t, step (at512 0xF018) = .next t := ⟨_, rfl⟩
theorem witness_LoadPlacesImageOrIsRefused :
    (List.replicate 3584 (0x12 : Byte)).length ≤ 3584 ∧ ready.stage = .fresh ∧
    ready.Inv ∧
    ({ ready with stage := .loaded } : Session).stage = .loaded ∧
    ({ ready with stage := .ticked } : Session).stage = .ticked ∧
    3584 < (List.replicate 3585 (0x12 : Byte)).length :=
  ⟨Nat.le_of_eq List.length_replicate, rfl, ready_inv, rfl, rfl,
    by rw [List.length_replicate]; omega⟩
theorem witness_ResetStateIsTheTable : ∃ s, s = State.resetWith (Vector.replicate 80 7) := ⟨_, rfl⟩
/-- An RND with the very counter of its twin, and a word that is no RND with another one. -/
theorem witness_TickDependsOnCoreStateAndRndOnly :
    (∃ t, (at512 0xC30F).toCoreState = (at512 0xC30F).toCoreState ∧ fetchInstr (at512 0xC30F) = some (.rnd 3 0x0F) ∧
      (at512 0xC30F).rndByte = (at512 0xC30F).rndByte ∧ step (at512 0xC30F) = .next t) ∧
    ∃ t, ({ at512 0x1234 with rndDraws := 9 } : State).toCoreState = (at512 0x1234).toCoreState ∧
      fetchInstr (at512 0x1234) = some (.jp 0x234) ∧ step (at512 0x1234) = .next t :=
  ⟨⟨_, rfl, by decide, rfl, rfl⟩, _, rfl, by decide, rfl⟩

end Sys2Proof.Tests
end

section
/-! SUPPORT. PC after every instruction (40_step_cycle.md R94): what each shared end of an instruction does to PC,
and from these the whole table. -/

namespace Sys2Proof.Machine

variable {s t u : State} {P : Prop}

/-! ## What a shared end of an instruction does to PC -/

/-- A row of R94's table, for an instruction that runs in `s` and answers `t`: a fault leaves PC, and `P` is what a
success does with it. -/
def PcRow (s t : State) (P : Prop) : Prop := (t.halted → t.pc = s.pc) ∧ (t.running → P)

theorem PcRow.of_running (hr : t.running) (hp : P) : PcRow s t P :=
  ⟨fun hh => absurd hr hh, fun _ => hp⟩

/-- R176: a fault leaves PC, whatever a success would have done. -/
theorem PcRow.of_raiseFault {c : ErrCode} {w : Word} (h : raiseFault c w s = .next t) (hc : c ≠ .noFault) :
    PcRow s t P := by
  obtain rfl := raiseFault_next h
  exact ⟨fun _ => rfl, fun hr => absurd hr hc⟩

theorem PcRow.of_setPc {w : Word} (h : .next (u.setPc w) = (.next t : Result)) (hr : u.running)
    (hp : t.pc = w → P) : PcRow s t P := by
  obtain rfl : u.setPc w = t := by simpa using h
  exact .of_running hr (hp rfl)

/-- What comes before the last `PC <- PC + 2` leaves PC and ERR alone (`hpc`, `herr`). -/
theorem PcRow.of_finish (h : finish u = .next t) (hs : s.running) (hpc : u.pc = s.pc) (herr : u.err = s.err) :
    PcRow s t (t.pc = s.pc + 2) := by
  obtain rfl := finish_next h
  exact .of_running (show u.err.code = .noFault by rw [herr, hs]) (by simp [hpc])

theorem PcRow.of_withRange {a n : Nat} (h : withRange a n s (finish u) = .next t) (hs : s.running)
    (hpc : u.pc = s.pc) (herr : u.err = s.err) : PcRow s t (t.pc = s.pc + 2) := by
  obtain ⟨-, -, hfault⟩ | ⟨-, hgo⟩ := withRange_cases a n s (finish u)
  · exact .of_raiseFault (hfault ▸ h) (by decide)
  · exact .of_finish (hgo ▸ h) hs hpc herr

theorem PcRow.of_skipIf {c : Bool} {p : Prop} [Decidable p] (h : skipIf c s = .next t) (hs : s.running)
    (hc : c = true ↔ p) : PcRow s t (t.pc = if p then s.pc + 4 else s.pc + 2) := by
  obtain rfl := skipIf_next h
  refine .of_running hs ?_
  by_cases hp : p <;> simp [hc, hp]

theorem PcRow.of_skipOnKey {x : Reg} {down : Bool} (h : skipOnKey x down s = .next t) (hs : s.running) :
    PcRow s t (t.pc = if s.keys.getLsbD s.v[x.val].toNat = down then s.pc + 4 else s.pc + 2) := by
  obtain ⟨-, hfault⟩ | ⟨-, hskip⟩ := skipOnKey_cases x down s
  · exact .of_raiseFault (hfault ▸ h) (by decide)
  · exact .of_skipIf (hskip ▸ h) hs beq_iff_eq

/-! ## Jump targets (R73, R107) -/

@[simp] theorem zext12_toNat (nnn : BitVec 12) : (zext12 nnn).toNat = nnn.toNat :=
  BitVec.toNat_setWidth_of_le (by decide)

/-- R107: the sum is at most 0x10FE, so it does not wrap. -/
theorem offsetTarget_toNat (v0 : Byte) (nnn : BitVec 12) :
    (offsetTarget v0 nnn).toNat = v0.toNat + nnn.toNat := by
  have hv := v0.isLt
  have hn := nnn.isLt
  simp only [offsetTarget, BitVec.toNat_add, zext12_toNat, BitVec.toNat_setWidth]
  omega

/-! ## Instructions with an end of their own -/

/-- R100: RET goes to the entry it uncovers, STACK[SP - 1]. -/
theorem PcRow.of_execRet (h : execRet s = .next t) (hs : s.running) :
    PcRow s t (∃ j : Fin 16, s.sp.val = j.val + 1 ∧ t.pc = s.stack[j.val]) := by
  unfold execRet at h
  split at h
  · exact .of_raiseFault h (by decide)
  · next a u hpop =>
    obtain ⟨hsp, rfl, rfl⟩ := popReturn_some hpop
    exact .of_setPc h hs fun hpc => ⟨⟨s.sp.val - 1, by omega⟩, by simp only; omega, hpc⟩

/-- R102. -/
theorem PcRow.of_execCall {nnn : BitVec 12} (h : execCall nnn s = .next t) (hs : s.running) :
    PcRow s t (t.pc.toNat = nnn.toNat) := by
  unfold execCall at h
  split at h
  · exact .of_raiseFault h (by decide)
  · next u hpush =>
    obtain ⟨_, rfl⟩ := pushReturn_some hpush
    exact .of_setPc h hs fun hpc => by simp [hpc]

/-- R162: there is no highest key exactly when the latch is 0. -/
theorem highestKey_eq_none_iff (keys : BitVec 16) : highestKey keys = none ↔ keys = 0 := by
  constructor
  · intro h
    exact BitVec.eq_of_getLsbD_eq fun j hj => by simpa using highestKeyBelow_none keys 16 h j hj
  · rintro rfl
    rfl

/-- R162: LD Vx, K stays where it is until a key is down. -/
theorem PcRow.of_execLdVxK {x : Reg} (h : execLdVxK x s = .next t) (hs : s.running) :
    PcRow s t (t.pc = if s.keys = 0 then s.pc else s.pc + 2) := by
  obtain ⟨hnone, hwait⟩ | ⟨k, hsome, htake⟩ := execLdVxK_cases x s
  · obtain rfl : s = t := by simpa [hwait] using h
    exact .of_running hs (by simp [(highestKey_eq_none_iff _).1 hnone])
  · have hkeys : s.keys ≠ 0 := fun h0 => by simp [(highestKey_eq_none_iff _).2 h0] at hsome
    rw [htake] at h
    rw [if_neg hkeys]
    exact .of_finish h hs rfl rfl

/-! ## The table -/

/-- Settles O13: each instruction's row follows from the shared operation that it ends with. -/
theorem programCounterTable : Obligations.ProgramCounterTable := by
  intro i s t hs h
  cases i with
  | jp => exact PcRow.of_setPc h hs fun hpc => by simp [hpc]
  | jpV0 nnn =>
    exact PcRow.of_setPc h hs fun hpc => (congrArg BitVec.toNat hpc).trans (offsetTarget_toNat s.v[0] nnn)
  | call => exact PcRow.of_execCall h hs
  | ret => exact PcRow.of_execRet h hs
  | seByte | seReg => exact PcRow.of_skipIf h hs beq_iff_eq
  | sneByte | sneReg => exact PcRow.of_skipIf h hs bne_iff_ne
  | skp | sknp => exact PcRow.of_skipOnKey h hs
  | ldVxK => exact PcRow.of_execLdVxK h hs
  | drw | ldB | storeRegs | loadRegs => exact PcRow.of_withRange h hs rfl rfl
  | cls | ldByte | addByte | ldReg | orReg | andReg | xorReg | addReg | sub | shr | subn | shl
  | ldI | rnd | ldVxDt | ldDtVx | ldStVx | addI | ldF => exact PcRow.of_finish h hs rfl rfl

end Sys2Proof.Machine
end

section
/-! SUPPORT. The jumps and the register skips (41_control_flow.md R101, R103 to R107), each with its whole next
state. -/

namespace Sys2Proof.Machine

variable {s : State}

/-! ## Jumps -/

/-- Settles O18: both jumps end in one write of PC, and the target of JP V0 does not wrap. -/
theorem jumpsSetPcOnly : Obligations.JumpsSetPcOnly := by
  intro nnn s
  constructor
  · exact ⟨s.setPc (zext12 nnn), rfl, zext12_toNat nnn, rfl⟩
  · exact ⟨s.setPc (offsetTarget s.v[0] nnn), rfl, offsetTarget_toNat s.v[0] nnn, rfl⟩

/-! ## Register skips -/

/-- R94: the whole next state of a skip whose condition decides `p`. -/
theorem skipIf_eq_of_iff {c : Bool} {p : Prop} [Decidable p] (hc : c = true ↔ p) :
    skipIf c s = .next { s with pc := if p then s.pc + 4 else s.pc + 2 } := by
  by_cases hp : p
  · simp [skipIf, State.advance, hc, hp]
  · simp [skipIf, State.advance, hc, hp]

/-- R103, R105. -/
theorem skipIf_beq (a b : Byte) :
    skipIf (a == b) s = .next { s with pc := if a = b then s.pc + 4 else s.pc + 2 } :=
  skipIf_eq_of_iff beq_iff_eq

/-- R104, R106: the two lengths change places. -/
theorem skipIf_bne (a b : Byte) :
    skipIf (a != b) s = .next { s with pc := if a = b then s.pc + 2 else s.pc + 4 } := by
  rw [skipIf_eq_of_iff bne_iff_ne, ite_not]

/-- Settles O19: the four skips are `skipIf` on an equality of two bytes or on its negation. -/
theorem registerSkips : Obligations.RegisterSkips := by
  intro x y kk s
  refine ⟨?seByte, ?sneByte, ?seReg, ?sneReg⟩
  case seByte => exact skipIf_beq s.v[x.val] kk
  case sneByte => exact skipIf_bne s.v[x.val] kk
  case seReg => exact skipIf_beq s.v[x.val] s.v[y.val]
  case sneReg => exact skipIf_bne s.v[x.val] s.v[y.val]

end Sys2Proof.Machine
end

section
/-! SUPPORT. The register writes without a flag (42_alu.md R120, R121, R124 to R126): what `writePlain` does, once,
and from it the immediate forms and the bitwise operations. -/

namespace Sys2Proof.Machine

/-- A register write followed by `PC <- PC + 2` touches nothing beyond the registers and PC. -/
theorem State.sameBeyondRegs_setV_advance (s : State) (x : Reg) (b : Byte) (n : Word) :
    s.sameBeyondRegs ((s.setV x b).advance n) := by
  simp [State.sameBeyondRegs]

/-- R123 without a flag: V[x] takes the result, every other register, VF included, and all else but PC is kept. -/
theorem writePlain_spec (x : Reg) (b : Byte) (s : State) :
    ∃ t, writePlain x b s = .next t ∧ t.pc = s.pc + 2 ∧
      (∀ r : Reg, t.v[r.val] = if r = x then b else s.v[r.val]) ∧
      t.i = s.i ∧ t.rndDraws = s.rndDraws ∧ s.sameBeyondRegs t := by
  refine ⟨(s.setV x b).advance 2, rfl, rfl, fun r => ?_, rfl, rfl, s.sameBeyondRegs_setV_advance x b 2⟩
  exact (s.getV_setV x r b).trans (if_congr eq_comm rfl rfl)

/-- `writePlain_spec` for a result given by its bits. -/
theorem writePlain_bits {b : Byte} {f : Nat → Bool} (hb : ∀ k, b.getLsbD k = f k) (x : Reg) (s : State) :
    ∃ t, writePlain x b s = .next t ∧ t.pc = s.pc + 2 ∧
      (∀ k, t.v[x.val].getLsbD k = f k) ∧ (∀ r : Reg, r ≠ x → t.v[r.val] = s.v[r.val]) ∧
      t.i = s.i ∧ t.rndDraws = s.rndDraws ∧ s.sameBeyondRegs t := by
  obtain ⟨t, hnext, hpc, hregs, hrest⟩ := writePlain_spec x b s
  have hx : t.v[x.val] = b := (hregs x).trans (if_pos rfl)
  exact ⟨t, hnext, hpc, fun k => hx ▸ hb k, fun r hr => (hregs r).trans (if_neg hr), hrest⟩

/-- Settles O23: both forms are one plain register write, ADD of the 8-bit sum. -/
theorem immediateForms : Obligations.ImmediateForms := by
  intro x kk s
  constructor
  · exact writePlain_spec x kk s
  · obtain ⟨t, hnext, hpc, hregs, hrest⟩ := writePlain_spec x (s.getV x + kk) s
    refine ⟨t, hnext, hpc, fun r => ?_, hrest⟩
    rw [hregs r, apply_ite BitVec.toNat, BitVec.toNat_add]

/-- Settles O25: each operation is one plain register write, whose bits are the operation on the operands' bits. -/
theorem logicOperations : Obligations.LogicOperations := by
  intro x y s
  refine ⟨?or, ?and, ?xor⟩
  case or => exact writePlain_bits (fun _ => BitVec.getLsbD_or) x s
  case and => exact writePlain_bits (fun _ => BitVec.getLsbD_and) x s
  case xor => exact writePlain_bits (fun _ => BitVec.getLsbD_xor) x s

end Sys2Proof.Machine
end

section
/-! SUPPORT. The index register (43_index_memory.md R140), with its whole next state. -/

namespace Sys2Proof.Machine

/-- Settles O30: LD I, nnn is one write of I, of the zero-extended nnn, followed by `PC <- PC + 2`. -/
theorem loadIndexImmediate : Obligations.LoadIndexImmediate := by
  intro nnn s
  refine ⟨(s.setI (zext12 nnn)).advance 2, ?next, ?index, ?pc, ?memory, ?frame⟩
  case next => rfl
  case index => exact zext12_toNat nnn
  case pc => rfl
  case memory => exact fun _ => rfl
  case frame => rfl

end Sys2Proof.Machine
end

section
/-! SUPPORT. CLS (44_display.md R151), with its whole next state. -/

namespace Sys2Proof.Machine

/-- Settles O38: CLS presents the framebuffer with every cell off, then `PC <- PC + 2`. -/
theorem clearScreen : Obligations.ClearScreen := by
  intro s
  refine ⟨(s.present fbClear).advance 2, ?next, ?cells, ?redraw, ?pc, ?memory, ?frame⟩
  case next => rfl
  case cells => exact fbGet_fbClear
  case redraw => exact s.present_redraw fbClear
  case pc => rfl
  case memory => exact fun _ => rfl
  case frame => rfl

end Sys2Proof.Machine
end

section
/-! SUPPORT. Decoding and encoding (30_encoding.md R70 to R76): a word selects at most one row, a field put back at
its place is the word under the field's mask, a row is selected by the values of its literal fields; from these the
statements on the decoder and the encoder. -/

namespace Sys2Proof

/-! ## A word selects at most one row (R74) -/

/-- Settles O5: two different rows disagree on a bit that both masks look at, where the word has one value. -/
theorem opcodeRowsDisjoint : Obligations.OpcodeRowsDisjoint := by
  intro w o p ho hp
  by_contra hne
  refine opcode_rows_differ o (mem_allOpcodes o) p (mem_allOpcodes p) hne ?_
  simp only [opcodeSelects, beq_iff_eq] at ho hp
  rw [← ho, ← hp]
  ext k hk
  simp only [BitVec.getElem_and, BitVec.getElem_xor]
  grind

/-- R74: the search by mask and match finds the row that selects the word, wherever it stands in the table. -/
theorem decodeWord_of_selects {o : Opcode} {w : Word} (h : opcodeSelects o w = true) :
    decodeWord w = some (opcodeBuild o w) := by
  unfold decodeWord
  cases hf : allOpcodes.find? (fun o => opcodeSelects o w) with
  | none => exact absurd h (List.find?_eq_none.1 hf o (mem_allOpcodes o))
  | some p =>
    have hp := List.find?_some hf
    rw [opcodeRowsDisjoint w o p h hp]
    rfl

theorem decodeWord_some {w : Word} {i : Instr} (h : decodeWord w = some i) :
    ∃ o, opcodeSelects o w = true ∧ opcodeBuild o w = i := by
  obtain ⟨o, ho, rfl⟩ := Option.map_eq_some_iff.1 h
  have hs := List.find?_some ho
  exact ⟨o, hs, rfl⟩

/-! ## A field put back at its place is the word under the field's mask (R71) -/

theorem shiftLeft_extractLsb' (w : Word) {m : Word} {k n : Nat}
    (hm : (BitVec.allOnes n).setWidth 16 <<< k = m) : (w.extractLsb' k n).setWidth 16 <<< k = w &&& m := by
  subst hm
  ext j hj
  by_cases h : j < k
  · simp [h]
  · have hk : k + (j - k) = j := by omega
    simp [h, hk, hj, Bool.and_comm, BitVec.getElem_setWidth]

theorem packX_fieldX (w : Word) : packX (fieldX w) = w &&& 0x0F00#16 := by
  rw [← shiftLeft_extractLsb' w (k := 8) (n := 4) (by decide), ← BitVec.ofNat_toNat]
  rfl

theorem packY_fieldY (w : Word) : packY (fieldY w) = w &&& 0x00F0#16 := by
  rw [← shiftLeft_extractLsb' w (k := 4) (n := 4) (by decide), ← BitVec.ofNat_toNat]
  rfl

theorem setWidth_fieldN (w : Word) : (fieldN w).setWidth 16 = w &&& 0x000F#16 :=
  (BitVec.shiftLeft_zero _).symm.trans (shiftLeft_extractLsb' w (by decide))

theorem setWidth_fieldKK (w : Word) : (fieldKK w).setWidth 16 = w &&& 0x00FF#16 :=
  (BitVec.shiftLeft_zero _).symm.trans (shiftLeft_extractLsb' w (by decide))

theorem setWidth_fieldNNN (w : Word) : (fieldNNN w).setWidth 16 = w &&& 0x0FFF#16 :=
  (BitVec.shiftLeft_zero _).symm.trans (shiftLeft_extractLsb' w (by decide))

/-! ## Every legal word is the encoding of what it decodes to -/

theorem opcodeOf_opcodeBuild (o : Opcode) (w : Word) : opcodeOf (opcodeBuild o w) = o := by
  cases o <;> rfl

/-- R71: a row's operands are the bits of the word that its mask leaves out. -/
theorem operandBits_opcodeBuild (o : Opcode) (w : Word) :
    operandBits (opcodeBuild o w) = w &&& ~~~opcodeMask o := by
  cases o <;>
    simp [opcodeBuild, operandBits, opcodeMask, packX_fieldX, packY_fieldY, setWidth_fieldN, setWidth_fieldKK,
      setWidth_fieldNNN, ← BitVec.and_or_distrib_left]

/-- Settles O4: the bits of the word under the row's mask are the row's literal ones, the others its operands. -/
theorem encodeOfDecode : Obligations.EncodeOfDecode := by
  intro w i h
  obtain ⟨o, ho, rfl⟩ := decodeWord_some h
  have hmatch : w &&& opcodeMask o = opcodeMatch o := by simpa [opcodeSelects] using ho
  rw [encode, opcodeOf_opcodeBuild, operandBits_opcodeBuild, ← hmatch, ← BitVec.and_or_distrib_left,
    BitVec.or_not_self, BitVec.and_allOnes]

/-! ## An encoded instruction decodes to itself -/

section

open Laws.EncodeSelectsRow

theorem opcodeSelects_encode (i : Instr) : opcodeSelects (opcodeOf i) (encode i) = true :=
  match i with
  | .cls => cls | .ret => ret | .jp a => jp a | .call a => call a
  | .seByte x k => seByte x k | .sneByte x k => sneByte x k | .seReg x y => seReg x y
  | .ldByte x k => ldByte x k | .addByte x k => addByte x k | .ldReg x y => ldReg x y
  | .orReg x y => orReg x y | .andReg x y => andReg x y | .xorReg x y => xorReg x y
  | .addReg x y => addReg x y | .sub x y => sub x y | .shr x y => shr x y
  | .subn x y => subn x y | .shl x y => shl x y | .sneReg x y => sneReg x y
  | .ldI a => ldI a | .jpV0 a => jpV0 a | .rnd x k => rnd x k | .drw x y n => drw x y n
  | .skp x => skp x | .sknp x => sknp x | .ldVxDt x => ldVxDt x | .ldVxK x => ldVxK x
  | .ldDtVx x => ldDtVx x | .ldStVx x => ldStVx x | .addI x => addI x | .ldF x => ldF x
  | .ldB x => ldB x | .storeRegs x => storeRegs x | .loadRegs x => loadRegs x

end

/-! The fields of the operand bits: each operand stands at its own place and nowhere else. -/

theorem extractLsb'_packX : ∀ x : Reg, (packX x).extractLsb' 8 4 = BitVec.ofFin x ∧
    (packX x).extractLsb' 4 4 = 0 ∧ (packX x).extractLsb' 0 8 = 0 ∧ (packX x).extractLsb' 0 4 = 0 := by
  decide

theorem extractLsb'_packY : ∀ y : Reg, (packY y).extractLsb' 8 4 = 0 ∧
    (packY y).extractLsb' 4 4 = BitVec.ofFin y ∧ (packY y).extractLsb' 0 4 = 0 := by
  decide

theorem extractLsb'_n : ∀ n : BitVec 4, (n.setWidth 16).extractLsb' 8 4 = 0 ∧
    (n.setWidth 16).extractLsb' 4 4 = 0 ∧ (n.setWidth 16).extractLsb' 0 4 = n := by
  decide

theorem extractLsb'_kk (k : Byte) : (k.setWidth 16).extractLsb' 8 4 = 0 ∧ (k.setWidth 16).extractLsb' 0 8 = k := by
  constructor
  · ext j hj; simp
  · ext j hj; simp [hj]; omega

theorem extractLsb'_nnn (a : BitVec 12) : (a.setWidth 16).extractLsb' 0 12 = a := by
  ext j hj; simp [hj]; omega

/-- R71, R72: a row's format reads every operand back from where the encoder put it. -/
theorem opcodeBuild_encode (i : Instr) : opcodeBuild (opcodeOf i) (encode i) = i := by
  cases i <;>
    simp [opcodeOf, opcodeBuild, fieldX, fieldY, fieldN, fieldKK, fieldNNN, encode, operandBits, opcodeMatch,
      BitVec.extractLsb'_or, extractLsb'_packX, extractLsb'_packY, extractLsb'_n, extractLsb'_kk, extractLsb'_nnn]

/-- Settles O3: the word selects the instruction's own row and no other, and the row reads the operands back. -/
theorem decodeOfEncode : Obligations.DecodeOfEncode := by
  intro i rest _
  have hword : decodeWord (encode i) = some i :=
    (decodeWord_of_selects (opcodeSelects_encode i)).trans (congrArg some (opcodeBuild_encode i))
  refine ⟨hword, ?_⟩
  rw [encodeBytes, List.cons_append, List.cons_append, List.nil_append, decode_cons_cons, wordOfBytes_bytes, hword]

/-! ## A row is selected by the values of its literal fields (R71, R74) -/

@[simp] theorem fieldOp_toNat (w : Word) : (fieldOp w).toNat = w.toNat / 4096 := by
  have := w.isLt
  simp only [fieldOp, BitVec.extractLsb'_toNat, Nat.shiftRight_eq_div_pow]
  omega

@[simp] theorem fieldN_toNat (w : Word) : (fieldN w).toNat = w.toNat % 16 := by
  simp [fieldN]

@[simp] theorem fieldKK_toNat (w : Word) : (fieldKK w).toNat = w.toNat % 256 := by
  simp [fieldKK]

/-- Two words agree under a field's mask exactly when they agree on the field. -/
theorem and_eq_and_iff_extractLsb' {m : Word} {k n : Nat} (hm : (BitVec.allOnes n).setWidth 16 <<< k = m)
    (hones : m.extractLsb' k n = BitVec.allOnes n) (w u : Word) :
    w &&& m = u &&& m ↔ (w.extractLsb' k n).toNat = (u.extractLsb' k n).toNat := by
  rw [← BitVec.toNat_eq]
  constructor
  · intro h
    simpa [BitVec.extractLsb'_and, hones] using congrArg (BitVec.extractLsb' k n) h
  · intro h
    rw [← shiftLeft_extractLsb' w hm, h, shiftLeft_extractLsb' u hm]

theorem and_op_eq_iff (w u : Word) : w &&& 0xF000#16 = u &&& 0xF000#16 ↔ w.toNat / 4096 = u.toNat / 4096 := by
  rw [← fieldOp_toNat, ← fieldOp_toNat]
  exact and_eq_and_iff_extractLsb' (by decide) (by decide) w u

theorem and_n_eq_iff (w u : Word) : w &&& 0x000F#16 = u &&& 0x000F#16 ↔ w.toNat % 16 = u.toNat % 16 := by
  rw [← fieldN_toNat, ← fieldN_toNat]
  exact and_eq_and_iff_extractLsb' (by decide) (by decide) w u

theorem and_kk_eq_iff (w u : Word) : w &&& 0x00FF#16 = u &&& 0x00FF#16 ↔ w.toNat % 256 = u.toNat % 256 := by
  rw [← fieldKK_toNat, ← fieldKK_toNat]
  exact and_eq_and_iff_extractLsb' (by decide) (by decide) w u

/-- Two words agree under two masks together exactly when they agree under each. -/
theorem and_or_eq_iff (w u a b : Word) :
    w &&& (a ||| b) = u &&& (a ||| b) ↔ w &&& a = u &&& a ∧ w &&& b = u &&& b := by
  constructor
  · intro h
    have hbit (k : Nat) : (w &&& (a ||| b)).getLsbD k = (u &&& (a ||| b)).getLsbD k := by rw [h]
    simp only [BitVec.getLsbD_and, BitVec.getLsbD_or] at hbit
    constructor <;> refine BitVec.eq_of_getLsbD_eq fun k _ => ?_
    · have := hbit k
      simp only [BitVec.getLsbD_and]
      grind
    · have := hbit k
      simp only [BitVec.getLsbD_and]
      grind
  · intro ⟨ha, hb⟩
    rw [BitVec.and_or_distrib_left, BitVec.and_or_distrib_left, ha, hb]

/-- A row's match lies under its mask, so the row is selected by any word that agrees with the match there. -/
theorem opcodeSelects_iff (o : Opcode) (w : Word) :
    opcodeSelects o w = true ↔ w &&& opcodeMask o = opcodeMatch o &&& opcodeMask o := by
  rw [opcodeSelects, beq_iff_eq, opcodeMatch_under_mask]

theorem opcodeSelects_iff_op {o : Opcode} (hm : opcodeMask o = 0xF000#16) (w : Word) :
    opcodeSelects o w = true ↔ w.toNat / 4096 = (opcodeMatch o).toNat / 4096 := by
  rw [opcodeSelects_iff, hm, and_op_eq_iff]

theorem opcodeSelects_iff_op_n {o : Opcode} (hm : opcodeMask o = 0xF000#16 ||| 0x000F#16) (w : Word) :
    opcodeSelects o w = true ↔
      w.toNat / 4096 = (opcodeMatch o).toNat / 4096 ∧ w.toNat % 16 = (opcodeMatch o).toNat % 16 := by
  rw [opcodeSelects_iff, hm, and_or_eq_iff, and_op_eq_iff, and_n_eq_iff]

theorem opcodeSelects_iff_op_kk {o : Opcode} (hm : opcodeMask o = 0xF000#16 ||| 0x00FF#16) (w : Word) :
    opcodeSelects o w = true ↔
      w.toNat / 4096 = (opcodeMatch o).toNat / 4096 ∧ w.toNat % 256 = (opcodeMatch o).toNat % 256 := by
  rw [opcodeSelects_iff, hm, and_or_eq_iff, and_op_eq_iff, and_kk_eq_iff]

/-! ## The case procedure of R75 -/

theorem fieldN_eq_iff (w : Word) (n : BitVec 4) : fieldN w = n ↔ w.toNat % 16 = n.toNat := by
  rw [BitVec.toNat_eq, fieldN_toNat]

theorem fieldKK_eq_iff (w : Word) (kk : Byte) : fieldKK w = kk ↔ w.toNat % 256 = kk.toNat := by
  rw [BitVec.toNat_eq, fieldKK_toNat]

/-- R75: on a word that a row selects the procedure answers as the row. -/
theorem decodeProcedure_of_selects {o : Opcode} {w : Word} (h : opcodeSelects o w = true) :
    decodeProcedure w = some (opcodeBuild o w) := by
  cases o with
  | cls | ret =>
    rw [opcodeSelects, beq_iff_eq, show opcodeMask _ = BitVec.allOnes 16 from rfl, BitVec.and_allOnes] at h
    subst h
    rfl
  | jp | call | seByte | sneByte | ldByte | addByte | ldI | jpV0 | rnd | drw =>
    have hop := (opcodeSelects_iff_op rfl w).1 h
    simp [decodeProcedure, hop, opcodeMatch, opcodeBuild]
  | seReg | sneReg | ldReg | orReg | andReg | xorReg | addReg | sub | shr | subn | shl =>
    obtain ⟨hop, hn⟩ := (opcodeSelects_iff_op_n rfl w).1 h
    simp [decodeProcedure, procedure8, fieldN_eq_iff, hop, hn, opcodeMatch, opcodeBuild]
  | skp | sknp | ldVxDt | ldVxK | ldDtVx | ldStVx | addI | ldF | ldB | storeRegs | loadRegs =>
    obtain ⟨hop, hkk⟩ := (opcodeSelects_iff_op_kk rfl w).1 h
    simp [decodeProcedure, procedureF, fieldKK_eq_iff, hop, hkk, opcodeMatch, opcodeBuild]

theorem opcodeSelects_of_procedure8 {w : Word} {i : Instr} (hop : w.toNat / 4096 = 8)
    (h : procedure8 w = some i) : opcodeSelects (opcodeOf i) w = true := by
  simp only [procedure8, fieldN_toNat] at h
  split at h <;> cases h <;> exact (opcodeSelects_iff_op_n rfl w).2 (by simp_all [opcodeMatch, opcodeOf])

theorem opcodeSelects_of_procedureF {w : Word} {i : Instr} (hop : w.toNat / 4096 = 15)
    (h : procedureF w = some i) : opcodeSelects (opcodeOf i) w = true := by
  simp only [procedureF, fieldKK_toNat] at h
  split at h <;> cases h <;> exact (opcodeSelects_iff_op_kk rfl w).2 (by simp_all [opcodeMatch, opcodeOf])

/-- R75: the procedure answers only on words that the answer's row selects. -/
theorem opcodeSelects_of_decodeProcedure {w : Word} {i : Instr} (h : decodeProcedure w = some i) :
    opcodeSelects (opcodeOf i) w = true := by
  simp only [decodeProcedure, fieldOp_toNat, fieldN_eq_iff, fieldKK_eq_iff] at h
  split at h
  case h_1 => split_ifs at h with hw hw <;> cases h <;> subst hw <;> decide
  case h_6 hop | h_10 hop =>
    split_ifs at h with hn
    cases h
    exact (opcodeSelects_iff_op_n rfl w).2 (by simp [hop, hn, opcodeMatch, opcodeOf])
  case h_9 hop => exact opcodeSelects_of_procedure8 hop h
  case h_15 hop =>
    split_ifs at h with hkk hkk <;> cases h <;>
      exact (opcodeSelects_iff_op_kk rfl w).2 (by simp [hop, hkk, opcodeMatch, opcodeOf])
  case h_16 => exact opcodeSelects_of_procedureF (by simp only [imp_false] at *; omega) h
  all_goals
    next hop => cases h; exact (opcodeSelects_iff_op rfl w).2 (by simp [hop, opcodeMatch, opcodeOf])

/-- Settles O6: the procedure answers exactly on the words that a row selects, and there it answers as the row. -/
theorem tableDecoderIsTheProcedure : Obligations.TableDecoderIsTheProcedure := by
  intro w
  cases hp : decodeProcedure w with
  | some i =>
    have hs := opcodeSelects_of_decodeProcedure hp
    rw [decodeWord_of_selects hs, ← decodeProcedure_of_selects hs, hp]
  | none =>
    refine Option.eq_none_iff_forall_ne_some.2 fun i hi => ?_
    obtain ⟨o, ho, -⟩ := decodeWord_some hi
    simp [decodeProcedure_of_selects ho] at hp

/-! ## Illegal words (R76) -/

theorem procedure8_eq_none_iff (w : Word) :
    procedure8 w = none ↔ w.toNat % 16 ∈ [0x8, 0x9, 0xA, 0xB, 0xC, 0xD, 0xF] := by
  simp only [procedure8, fieldN_toNat, List.mem_cons, List.not_mem_nil, or_false]
  split
  case h_10 => exact iff_of_true rfl (by simp only [imp_false] at *; omega)
  all_goals simp [*]

theorem procedureF_eq_none_iff (w : Word) : procedureF w = none ↔
    w.toNat % 256 ∉ [0x07, 0x0A, 0x15, 0x18, 0x1E, 0x29, 0x33, 0x55, 0x65] := by
  simp only [procedureF, fieldKK_toNat, List.mem_cons, List.not_mem_nil, or_false]
  split
  case h_10 => exact iff_of_true rfl (by simp only [imp_false] at *; omega)
  all_goals simp [*]

/-- Settles O7: through the procedure, one value of the high nibble after the other. -/
theorem illegalWordsExactly : Obligations.IllegalWordsExactly := by
  intro w
  rw [tableDecoderIsTheProcedure w]
  simp only [decodeProcedure, fieldOp_toNat, fieldN_eq_iff, fieldKK_eq_iff]
  split
  case h_1 | h_15 => split_ifs <;> simp_all
  case h_9 hop => simp [hop, procedure8_eq_none_iff]
  case h_16 =>
    have hop : w.toNat / 4096 = 15 := by simp only [imp_false] at *; omega
    simp [hop, procedureF_eq_none_iff]
  all_goals simp [*]

/-- Settles O8. -/
theorem sampleWordsDecode : Obligations.SampleWordsDecode := by
  unfold Obligations.SampleWordsDecode
  decide

end Sys2Proof
end

section
/-! SUPPORT. Every instruction and every tick, said once: an instruction raises its fault of the table or has its
effect (60_exceptions.md R170, R176), and a tick answers one of five next states (40_step_cycle.md R90 to R96). -/

namespace Sys2Proof.Machine

variable {i : Instr} {s t : State}

/-! ## The effect of an instruction that raises no fault -/

/-- R123: VF receives the flag, then V[x] the result. -/
def State.setFlagged (s : State) (x : Reg) (fr : Bool × Byte) : State := (s.setV vf (flagByte fr.1)).setV x fr.2

/-- R152, R155, R156: what DRW draws, whatever the range. -/
def State.drawn (s : State) (x y : Reg) (n : BitVec 4) : Framebuffer × Bool :=
  drawPixels (spriteTargets (s.getV x).toNat (s.getV y).toNat (s.mem.readBytes (dataAddr s 0) n.toNat)) s.fb

/-- The next state of an instruction that raises no fault (`exec_eq`); for one that does it says nothing. -/
def effect (i : Instr) (s : State) : State :=
  match i with
  | .cls => (s.present fbClear).advance 2
  | .ret => { s with pc := s.stack[s.sp.val - 1], sp := ⟨s.sp.val - 1, by omega⟩ }
  | .jp nnn => s.setPc (zext12 nnn)
  | .call nnn =>
    { s with
      stack := s.stack.setIfInBounds s.sp.val (s.pc + 2)
      sp := ⟨min (s.sp.val + 1) 16, by omega⟩
      pc := zext12 nnn }
  | .seByte x kk => s.advance (if s.getV x == kk then 4 else 2)
  | .sneByte x kk => s.advance (if s.getV x != kk then 4 else 2)
  | .seReg x y => s.advance (if s.getV x == s.getV y then 4 else 2)
  | .sneReg x y => s.advance (if s.getV x != s.getV y then 4 else 2)
  | .ldByte x kk => (s.setV x kk).advance 2
  | .addByte x kk => (s.setV x (s.getV x + kk)).advance 2
  | .ldReg x y => (s.setV x (s.getV y)).advance 2
  | .orReg x y => (s.setV x (s.getV x ||| s.getV y)).advance 2
  | .andReg x y => (s.setV x (s.getV x &&& s.getV y)).advance 2
  | .xorReg x y => (s.setV x (s.getV x ^^^ s.getV y)).advance 2
  | .addReg x y => (s.setFlagged x (addFlagged (s.getV x) (s.getV y))).advance 2
  | .sub x y => (s.setFlagged x (subFlagged (s.getV x) (s.getV y))).advance 2
  | .shr x _ => (s.setFlagged x (shrFlagged (s.getV x))).advance 2
  | .subn x y => (s.setFlagged x (subnFlagged (s.getV x) (s.getV y))).advance 2
  | .shl x _ => (s.setFlagged x (shlFlagged (s.getV x))).advance 2
  | .ldI nnn => (s.setI (zext12 nnn)).advance 2
  | .jpV0 nnn => s.setPc (offsetTarget (s.getV 0) nnn)
  | .rnd x kk => (s.rndConsumed.setV x (s.rndByte &&& kk)).advance 2
  | .drw x y n => ((s.setV vf (flagByte (s.drawn x y n).2)).present (s.drawn x y n).1).advance 2
  | .skp x => s.advance (if s.keys.getLsbD (s.getV x).toNat == true then 4 else 2)
  | .sknp x => s.advance (if s.keys.getLsbD (s.getV x).toNat == false then 4 else 2)
  | .ldVxDt x => (s.setV x s.dt).advance 2
  | .ldVxK x =>
    match highestKey s.keys with
    | none => s
    | some k => (s.setV x (BitVec.ofNat 8 k)).advance 2
  | .ldDtVx x => (s.setDt (s.getV x)).advance 2
  | .ldStVx x => (s.setSt (s.getV x)).advance 2
  | .addI x =>
    ((s.setV vf (flagByte (indexAddFlagged s.i (s.getV x)).1)).setI (indexAddFlagged s.i (s.getV x)).2).advance 2
  | .ldF x => (s.setI (glyphAddr (s.getV x))).advance 2
  | .ldB x => (s.setMem (s.mem.writeBytes (dataAddr s 0) (bcdDigits (s.getV x)))).advance 2
  | .storeRegs x =>
    ((s.setMem (s.mem.writeBytes (dataAddr s 0) (regBlock s.v x))).setI
      (BitVec.ofNat 16 (dataAddr s (x.val + 1)))).advance 2
  | .loadRegs x =>
    ((s.setRegs (fillRegs s.v 0 (s.mem.readBytes (dataAddr s 0) (x.val + 1)))).setI
      (BitVec.ofNat 16 (dataAddr s (x.val + 1)))).advance 2

/-- R162: the wait changes nothing. -/
theorem effect_ldVxK_cases (x : Reg) (s : State) :
    effect (.ldVxK x) s = s ∨ ∃ b, effect (.ldVxK x) s = (s.setV x b).advance 2 := by
  simp only [effect]
  split
  · exact .inl rfl
  · exact .inr ⟨_, rfl⟩

/-- R102: CALL writes PC + 2 to STACK[SP] and no other entry. -/
theorem getElem_effect_call_stack (nnn : BitVec 12) (s : State) (j : Fin 16) :
    (effect (.call nnn) s).stack[j.val] = if s.sp.val = j.val then s.pc + 2 else s.stack[j.val] :=
  Vector.getElem_setIfInBounds ..

/-- R64, R175: an access beyond 4095 raises its fault, any other goes on. -/
theorem withRange_eq (a n : Nat) (s u : State) :
    withRange a n s (finish u) = if 0 < n ∧ 4095 < a + n - 1
      then .next { s with err := { code := .dataOutOfBounds, info := 0 } } else .next (u.advance 2) := by
  split
  · exact withRange_fault ‹_› s _
  · exact withRange_ok (by omega) s _

/-- R160, R161, R177: a key index above 15 raises its fault, any other skips on the key's level. -/
theorem skipOnKey_eq (x : Reg) (down : Bool) (s : State) :
    skipOnKey x down s = if 15 < s.v[x.val].toNat
      then .next { s with err := { code := .keyIndexOutOfRange, info := 0 } }
      else skipIf (s.keys.getLsbD s.v[x.val].toNat == down) s := rfl

/-- R170, R176: an instruction raises exactly its fault of the table and changes nothing else, or has its effect. -/
theorem exec_eq (i : Instr) (s : State) :
    exec i s = .next (if executeFault i s = .noFault then effect i s
      else { s with err := { code := executeFault i s, info := 0 } }) := by
  cases i with
  | ret =>
    by_cases hsp : s.sp.val = 0
    · simp [exec, execRet, popReturn_empty hsp, executeFault, hsp, raiseFault]
    · simp [exec, execRet, popReturn_ok (Nat.pos_of_ne_zero hsp), executeFault, hsp, effect, State.setPc]
  | call nnn =>
    by_cases hsp : s.sp.val = 16
    · simp [exec, execCall, pushReturn_full _ hsp, executeFault, hsp, raiseFault]
    · have hlt : s.sp.val < 16 := by omega
      have hset (w : Word) : s.stack.set s.sp.val w = s.stack.setIfInBounds s.sp.val w := by
        ext j hj
        simp [Vector.getElem_set, Vector.getElem_setIfInBounds]
      simp [exec, execCall, pushReturn_ok _ hlt, executeFault, hsp, effect, State.setPc, hset, hlt]
  | skp x | sknp x =>
    refine (skipOnKey_eq x _ s).trans ?_
    simp only [executeFault]
    split <;> simp [*, effect, skipIf]
  | drw x y n =>
    refine (withRange_eq ..).trans ?_
    simp only [executeFault]
    split <;> simp_all [effect, State.drawn]
  | ldB x | storeRegs x | loadRegs x =>
    refine (withRange_eq ..).trans ?_
    simp only [executeFault]
    split <;> simp_all [effect]
  | ldVxK x =>
    obtain ⟨hkey, hwait⟩ | ⟨k, hkey, htake⟩ := execLdVxK_cases x s
    · simp [exec, executeFault, effect, hkey, hwait]
    · simp [exec, executeFault, effect, hkey, htake, finish]
  | _ => rfl

theorem exec_cases (h : exec i s = .next t) :
    (executeFault i s = .noFault ∧ t = effect i s) ∨
    (executeFault i s ≠ .noFault ∧ t = { s with err := { code := executeFault i s, info := 0 } }) := by
  rw [exec_eq] at h
  by_cases hf : executeFault i s = .noFault
  · exact .inl ⟨hf, by simpa [hf] using h.symm⟩
  · exact .inr ⟨hf, by simpa [hf] using h.symm⟩

theorem exec_of_noFault (hf : executeFault i s = .noFault) : exec i s = .next (effect i s) := by
  rw [exec_eq, if_pos hf]

theorem exec_of_fault {c : ErrCode} (hf : executeFault i s = c) (hc : c ≠ .noFault) :
    exec i s = .next { s with err := { code := c, info := 0 } } := by
  rw [exec_eq, if_neg (hf.trans_ne hc), hf]

/-! R37: no effect writes ERR or KEYS. -/

@[simp] theorem effect_err (i : Instr) (s : State) : (effect i s).err = s.err := by
  cases i with
  | ldVxK x => simp only [effect]; split <;> rfl
  | _ => rfl

@[simp] theorem effect_keys (i : Instr) (s : State) : (effect i s).keys = s.keys := by
  cases i with
  | ldVxK x => simp only [effect]; split <;> rfl
  | _ => rfl

/-! ## The fault table -/

/-- The table looks at V, I and SP only. -/
theorem executeFault_congr {s' : State} (i : Instr) (hv : s'.v = s.v) (hi : s'.i = s.i) (hsp : s'.sp = s.sp) :
    executeFault i s' = executeFault i s := by
  cases i <;> simp only [executeFault, hv, hi, hsp]

/-- R172: an instruction is no illegal word. -/
theorem executeFault_ne_unknownOpcode (i : Instr) (s : State) : executeFault i s ≠ .unknownOpcode := by
  cases i with
  | ret | call | drw | skp | sknp | ldB | storeRegs | loadRegs =>
    simp only [executeFault]
    split <;> decide
  | _ => exact nofun

/-- Settles O17: with no fault ERR is as it was, which is `noFault`. -/
theorem executeFaultsExactly : Obligations.ExecuteFaultsExactly := by
  intro i s hs
  by_cases hf : executeFault i s = .noFault
  · exact ⟨_, exec_of_noFault hf, by rw [effect_err, hs, hf], fun hne => absurd hf hne⟩
  · exact ⟨_, exec_of_fault rfl hf, rfl, fun _ => rfl⟩

/-! ## The tick -/

/-- Settles O15. -/
theorem haltedTickChangesNothing : Obligations.HaltedTickChangesNothing := by
  intro s hs
  exact if_neg hs

theorem step_of_fetch_none (hs : s.running) (hf : fetchWord s = none) :
    step s = .next { s with err := { code := .fetchOutOfBounds, info := 0 } } := by
  simp [step, hs, hf, raiseFault]

/-- Settles O10. -/
theorem illegalWordRaisesUnknownOpcode : Obligations.IllegalWordRaisesUnknownOpcode := by
  intro s w hs hf hd
  simp [step, hs, hf, hd, raiseFault]

theorem step_of_fetchInstr (hs : s.running) (hi : fetchInstr s = some i) : step s = endTick (exec i s) := by
  obtain ⟨w, hf, hd⟩ := fetchInstr_some hi
  simp [step, hs, hf, hd]

theorem step_of_fault (hs : s.running) (hi : fetchInstr s = some i) (hf : executeFault i s ≠ .noFault) :
    step s = .next { s with err := { code := executeFault i s, info := 0 } } := by
  rw [step_of_fetchInstr hs hi, exec_of_fault rfl hf]
  exact if_neg hf

theorem step_of_noFault (hs : s.running) (hi : fetchInstr s = some i) (hf : executeFault i s = .noFault) :
    step s = .next (countdown (effect i s)) := by
  rw [step_of_fetchInstr hs hi, exec_of_noFault hf]
  exact if_pos (by rw [effect_err, hs])

/-- The five next states of a tick, each with what leads to it. -/
inductive TickCase (s t : State) : Prop
  | halted (hs : s.halted) (ht : t = s)
  | fetchNone (hs : s.running) (hf : fetchWord s = none)
      (ht : t = { s with err := { code := .fetchOutOfBounds, info := 0 } })
  | illegal (w : Word) (hs : s.running) (hf : fetchWord s = some w) (hd : decodeWord w = none)
      (ht : t = { s with err := { code := .unknownOpcode, info := w } })
  | fault (i : Instr) (hs : s.running) (hi : fetchInstr s = some i) (hf : executeFault i s ≠ .noFault)
      (ht : t = { s with err := { code := executeFault i s, info := 0 } })
  | success (i : Instr) (hs : s.running) (hi : fetchInstr s = some i) (hf : executeFault i s = .noFault)
      (ht : t = countdown (effect i s))

theorem tickCase_of_step (h : step s = .next t) : TickCase s t := by
  obtain ⟨hs, ht⟩ | ⟨hs, hf, ht⟩ | ⟨w, hs, hf, hd, ht⟩ | ⟨i, u, hs, hi, -, -⟩ := step_cases h
  · exact .halted hs ht
  · exact .fetchNone hs hf ht
  · exact .illegal w hs hf hd ht
  · by_cases hf : executeFault i s = .noFault
    · rw [step_of_noFault hs hi hf] at h
      exact .success i hs hi hf (by simpa using h.symm)
    · rw [step_of_fault hs hi hf] at h
      exact .fault i hs hi hf (by simpa using h.symm)

/-- Settles O14. -/
theorem everyTickAnswersNext : Obligations.EveryTickAnswersNext := by
  intro s
  by_cases hs : s.running
  · cases hf : fetchWord s with
    | none => exact ⟨_, step_of_fetch_none hs hf⟩
    | some w =>
      cases hd : decodeWord w with
      | none => exact ⟨_, illegalWordRaisesUnknownOpcode s w hs hf hd⟩
      | some i =>
        have hi : fetchInstr s = some i := by simp [fetchInstr, hf, hd]
        by_cases hx : executeFault i s = .noFault
        · exact ⟨_, step_of_noFault hs hi hx⟩
        · exact ⟨_, step_of_fault hs hi hx⟩
  · exact ⟨_, haltedTickChangesNothing s hs⟩

/-- R90, R95, R176: a tick that runs an instruction without a fault ends running. -/
theorem countdown_effect_running (i : Instr) (hs : s.running) : (countdown (effect i s)).running := by
  rw [State.running, countdown_err, effect_err, hs]

/-- Settles O16: of the five next states the three faults differ from `s` in ERR alone, and a success runs. -/
theorem faultsArePrecise : Obligations.FaultsArePrecise := by
  intro s t hs h ht
  cases tickCase_of_step h with
  | halted hh => exact absurd hs hh
  | fetchNone _ _ heq => exact heq ▸ ⟨rfl, nofun, fun _ => rfl⟩
  | illegal w _ hf _ heq => exact heq ▸ ⟨rfl, fun _ => hf, fun hne => absurd rfl hne⟩
  | fault i _ _ _ heq =>
    exact heq ▸ ⟨rfl, fun hx => absurd hx (executeFault_ne_unknownOpcode i s), fun _ => rfl⟩
  | success i _ _ _ heq => exact absurd (heq ▸ countdown_effect_running i hs) ht

/-- Settles O9: the high byte of the fetched word is the one at PC. -/
theorem fetchIsBigEndianOrFaults : Obligations.FetchIsBigEndianOrFaults := by
  intro s
  constructor
  · intro hpc
    refine ⟨_, if_neg (by omega), ?_⟩
    rw [wordOfBytes, BitVec.toNat_append, ← Nat.shiftLeft_add_eq_or_of_lt (BitVec.isLt _), Nat.shiftLeft_eq]
    omega
  · intro hpc hs
    exact step_of_fetch_none hs (fetchWord_none_iff.2 hpc)

/-- Settles O11: the bytes at PC are those the fetch reads. -/
theorem stepRunsTheDecodedInstruction : Obligations.StepRunsTheDecodedInstruction := by
  intro s t i rest hs hpc _ hdec hexec
  have hi : fetchInstr s = some i := by
    rw [fetchInstr, fetchWord, if_neg (by omega), Option.bind_some]
    rw [decode_cons_cons] at hdec
    cases hd : decodeWord (wordOfBytes (s.mem.read s.pc.toNat) (s.mem.read (s.pc.toNat + 1))) with
    | none => simp [hd] at hdec
    | some j => simpa [hd] using hdec
  rw [step_of_fetchInstr hs hi, hexec]
  simp only [endTick]
  split <;> rfl

/-- Settles O12: an effect writes DT in LD DT, Vx alone and ST in LD ST, Vx alone, and then both count down. -/
theorem timersCountDownOncePerTick : Obligations.TimersCountDownOncePerTick := by
  intro s t i hs hi h
  by_cases hf : executeFault i s = .noFault
  · obtain rfl : countdown (effect i s) = t := by simpa [step_of_noFault hs hi hf] using h
    refine ⟨fun _ => ?_, fun ht => absurd (countdown_effect_running i hs) ht⟩
    simp only [countdown_dt, countdown_st, timerDown_toNat]
    cases i with
    | ldVxK x => simp only [effect]; split <;> exact ⟨rfl, rfl⟩
    | _ => exact ⟨rfl, rfl⟩
  · obtain rfl : { s with err := { code := executeFault i s, info := 0 } } = t := by
      simpa [step_of_fault hs hi hf] using h
    exact ⟨fun ht => absurd ht hf, fun _ => ⟨rfl, rfl⟩⟩

/-! ## A relation between states that every tick keeps -/

/-- A tick matches a tick from a related state when the relation leaves fetch, ERR and faults alone and survives
both a fault and the effect of the instruction at PC. -/
theorem step_related {R : State → State → Prop} {s' : State}
    (herr : s'.err = s.err) (hfetch : fetchWord s' = fetchWord s)
    (hfault : ∀ i, executeFault i s' = executeFault i s)
    (hsame : R s s') (hraise : ∀ e, R { s with err := e } { s' with err := e })
    (heffect : ∀ i, fetchInstr s = some i → executeFault i s = .noFault →
      R (countdown (effect i s)) (countdown (effect i s')))
    (h : step s = .next t) : ∃ t', step s' = .next t' ∧ R t t' := by
  have hinstr : fetchInstr s' = fetchInstr s := by rw [fetchInstr, hfetch, fetchInstr]
  cases tickCase_of_step h with
  | halted hs ht =>
    exact ⟨s', haltedTickChangesNothing s' (by rwa [State.halted, herr]), ht ▸ hsame⟩
  | fetchNone hs hf ht =>
    exact ⟨_, step_of_fetch_none (by rwa [State.running, herr]) (hfetch.trans hf), ht ▸ hraise _⟩
  | illegal w hs hf hd ht =>
    exact ⟨_, illegalWordRaisesUnknownOpcode s' w (by rwa [State.running, herr]) (hfetch.trans hf) hd,
      ht ▸ hraise _⟩
  | fault i hs hi hf ht =>
    refine ⟨_, step_of_fault (by rwa [State.running, herr]) (hinstr.trans hi) (by rwa [hfault]), ?_⟩
    rw [ht, hfault]
    exact hraise _
  | success i hs hi hf ht =>
    exact ⟨_, step_of_noFault (by rwa [State.running, herr]) (hinstr.trans hi) (by rwa [hfault]),
      ht ▸ heffect i hi hf⟩

/-! ## What a tick does not depend on -/

/-- Settles O56: no fetch, fault or effect reads ST. -/
theorem soundTimerUnobservable : Obligations.SoundTimerUnobservable := by
  intro s t b h
  have heffect (i : Instr) :
      ∃ c, countdown (effect i { s with st := b }) = { countdown (effect i s) with st := c } := by
    refine ⟨(countdown (effect i { s with st := b })).st, ?_⟩
    cases i with
    | ldVxK x => simp only [effect]; split <;> rfl
    | _ => rfl
  obtain ⟨_, hstep, c, rfl⟩ := step_related (R := fun t t' => ∃ c, t' = { t with st := c })
    (s := s) (s' := { s with st := b }) rfl rfl (fun i => executeFault_congr i rfl rfl rfl)
    ⟨b, rfl⟩ (fun _ => ⟨b, rfl⟩) (fun i _ _ => heffect i) h
  exact ⟨c, hstep⟩

/-- Settles O55: no fetch and no fault reads KEYS, and an effect only in the three instructions. -/
theorem keysReadByKeyInstructionsOnly : Obligations.KeysReadByKeyInstructionsOnly := by
  intro s t k hkey h
  have heffect (i : Instr) (hi : fetchInstr s = some i) :
      countdown (effect i { s with keys := k }) = { countdown (effect i s) with keys := k } := by
    cases i with
    | skp x => exact absurd hi (hkey x).1
    | sknp x => exact absurd hi (hkey x).2.1
    | ldVxK x => exact absurd hi (hkey x).2.2
    | _ => rfl
  obtain ⟨_, hstep, rfl⟩ := step_related (R := fun t t' => t' = { t with keys := k })
    (s := s) (s' := { s with keys := k }) rfl rfl (fun i => executeFault_congr i rfl rfl rfl) rfl (fun _ => rfl)
    (fun i hi _ => heffect i hi) h
  exact hstep

/-- Settles O60: no fetch and no fault looks beyond CORE, and an effect only in RND, at the byte. -/
theorem tickDependsOnCoreStateAndRndOnly : Obligations.TickDependsOnCoreStateAndRndOnly := by
  rintro ⟨_, n⟩ ⟨c, n'⟩ t rfl hrnd h
  have heffect (i : Instr) (hi : fetchInstr ⟨c, n⟩ = some i) :
      (countdown (effect i ⟨c, n'⟩)).toCoreState = (countdown (effect i ⟨c, n⟩)).toCoreState := by
    cases i with
    | rnd x kk => simp only [effect, hrnd x kk hi]; rfl
    | ldVxK x => simp only [effect]; split <;> rfl
    | _ => rfl
  exact step_related (R := fun t t' => t'.toCoreState = t.toCoreState) (s := ⟨c, n⟩) (s' := ⟨c, n'⟩)
    rfl rfl (fun i => executeFault_congr i rfl rfl rfl) rfl (fun _ => rfl) (fun i hi _ => heffect i hi) h

/-- Settles O54: CALL writes the entry at SP alike in both states, and RET reads the one below SP, which is live. -/
theorem poppedEntriesUnobservable : Obligations.PoppedEntriesUnobservable := by
  intro s s' t hR h
  have ⟨hsp, hlive, hs'⟩ := hR
  refine step_related (by rw [hs']) (fetchWord_congr (by rw [hs']) (by rw [hs']))
    (fun i => executeFault_congr i (by rw [hs']) (by rw [hs']) hsp) hR
    (fun e => ⟨hsp, hlive, by rw [hs']⟩) (fun i _ hf => ?_) h
  rw [hs']
  cases i with
  | call nnn =>
    refine ⟨rfl, fun j hj => ?_, rfl⟩
    have hj : j.val < min (s.sp.val + 1) 16 := hj
    simp only [countdown_stack, getElem_effect_call_stack]
    split
    · rfl
    · exact hlive j (by omega)
  | ret =>
    have hpos : s.sp.val ≠ 0 := by intro h0; simp [executeFault, h0] at hf
    have htop : s'.stack[s.sp.val - 1] = s.stack[s.sp.val - 1] :=
      hlive ⟨s.sp.val - 1, by omega⟩ (by simp only; omega)
    refine ⟨rfl, fun j (hj : j.val < s.sp.val - 1) => hlive j (by omega), ?_⟩
    simp only [effect, htop]
    rfl
  | ldVxK x => simp only [effect]; split <;> exact ⟨rfl, hlive, rfl⟩
  | _ => exact ⟨rfl, hlive, rfl⟩

end Sys2Proof.Machine
end

section
/-! SUPPORT. Frames over every instruction (10_state.md R20, R21, R37, 20_memory.md R56): what no effect writes. -/

namespace Sys2Proof.Machine

/-! ## Registers -/

theorem State.getV_setV_of_ne {r x : Reg} (h : r ≠ x) (s : State) (b : Byte) : (s.setV x b).v[r.val] = s.v[r.val] :=
  (s.getV_setV x r b).trans (if_neg h.symm)

/-- R21: the flag is written first, so that the result stays in VF when it is the destination. -/
theorem State.getV_setFlagged (s : State) (x r : Reg) (fr : Bool × Byte) :
    (s.setFlagged x fr).v[r.val] = if r = x then fr.2 else if r = 15 then flagByte fr.1 else s.v[r.val] := by
  rw [State.setFlagged, State.getV_setV, State.getV_setV]
  exact if_congr eq_comm rfl (if_congr eq_comm rfl rfl)

theorem State.getV_setFlagged_of_ne {r x : Reg} (h : ¬(r = x ∨ r = 15)) (s : State) (fr : Bool × Byte) :
    (s.setFlagged x fr).v[r.val] = s.v[r.val] := by
  rw [State.getV_setFlagged, if_neg (fun hx => h (.inl hx)), if_neg (fun hf => h (.inr hf))]

/-- R145: V[0] to V[x] take the bytes from I on, registers above x are not touched. -/
theorem getV_effect_loadRegs (x r : Reg) (s : State) : (effect (.loadRegs x) s).v[r.val] =
    if r ≤ x then s.mem.read (dataAddr s r.val) else s.v[r.val] := by
  simp only [effect, State.advance_v, State.setI_v, State.setRegs_v]
  rw [getElem_fillRegs _ _ _ _ r.isLt, Memory.length_readBytes]
  by_cases h : r ≤ x
  · have hr : r.val < x.val + 1 := Nat.lt_succ_of_le h
    rw [if_pos ⟨Nat.zero_le _, by omega⟩, if_pos h, Nat.sub_zero,
      List.getD_eq_getElem _ _ (by rwa [Memory.length_readBytes]), Memory.getElem_readBytes]
    rfl
  · have hr : ¬r.val < x.val + 1 := fun hlt => h (Nat.le_of_lt_succ hlt)
    rw [if_neg (by omega), if_neg h]

/-- Settles O47: by what each instruction writes to V; a fault writes ERR alone. -/
theorem registerFrame : Obligations.RegisterFrame := by
  intro i s t r h hr
  obtain ⟨-, rfl⟩ | ⟨-, rfl⟩ := exec_cases h
  · cases i with
    | ldByte | addByte | ldReg | orReg | andReg | xorReg | rnd | ldVxDt | drw | addI =>
      simp only [effect, State.advance_v, State.present_v, State.setI_v]
      exact State.getV_setV_of_ne hr _ _
    | addReg | sub | shr | subn | shl =>
      simp only [effect, State.advance_v]
      exact State.getV_setFlagged_of_ne hr _ _
    | ldVxK x =>
      obtain hwait | ⟨b, htake⟩ := effect_ldVxK_cases x s
      · rw [hwait]
      · rw [htake]
        exact State.getV_setV_of_ne hr _ _
    | loadRegs x => exact (getV_effect_loadRegs x r s).trans (if_neg hr)
    | _ => rfl
  · rfl

/-- Settles O48: only the two stores replace memory, and each by one run of bytes. -/
theorem memoryFrame : Obligations.MemoryFrame := by
  intro i s t a h ha
  obtain ⟨-, rfl⟩ | ⟨-, rfl⟩ := exec_cases h
  · cases i with
    | ldB =>
      refine (Memory.read_writeBytes _ _ _ _).trans (if_neg ?_)
      simp only [storesTo, dataAddr, bcdDigits, List.length_cons, List.length_nil] at ha ⊢
      omega
    | storeRegs =>
      refine (Memory.read_writeBytes _ _ _ _).trans (if_neg ?_)
      simp only [storesTo, dataAddr, length_regBlock] at ha ⊢
      omega
    | ldVxK => simp only [effect]; split <;> rfl
    | _ => rfl
  · rfl

/-- Settles O49: by what each instruction writes; a fault writes ERR alone. -/
theorem accessSummary : Obligations.AccessSummary := by
  intro i s t h
  obtain ⟨-, rfl⟩ | ⟨hf, rfl⟩ := exec_cases h
  · refine ⟨effect_keys i s, ?_⟩
    cases i with
    | ldVxK x => simp only [effect]; split <;> simp
    | _ => simp [effect, State.setFlagged]
  · simp [hf]

/-- Settles O43: the fault table has a row for DRW and none for CLS. -/
theorem redrawFlag : Obligations.RedrawFlag := by
  intro i s t hs h
  obtain ⟨hf, rfl⟩ | ⟨hf, rfl⟩ := exec_cases h
  · cases i with
    | ldVxK x => simp only [effect]; split <;> rfl
    | drw x y n => simp [effect, hs]
    | _ => rfl
  · cases i with
    | drw x y n => exact (if_neg hf).symm
    | cls => exact absurd rfl hf
    | _ => rfl

end Sys2Proof.Machine
end

section
/-! SUPPORT. The invariants that every tick keeps (10_state.md R23, 41_control_flow.md R102, 60_exceptions.md R176 to
R180): each part of `State.Inv` for an effect, a fault being a change of ERR alone. -/

namespace Sys2Proof.Machine

variable {i : Instr} {s t : State}

/-! ## The parts of the invariant -/

theorem effect_mem_wf (hf : executeFault i s = .noFault) (h : s.mem.wf = true) : (effect i s).mem.wf = true := by
  cases i with
  | ldB =>
    have hin : ¬4095 < s.i.toNat + 2 := by intro hlt; simp [executeFault, hlt] at hf
    exact Memory.wf_writeBytes _ _ _ (by simp [bcdDigits]; omega) h
  | storeRegs x =>
    have hin : ¬4095 < s.i.toNat + x.val := by intro hlt; simp [executeFault, hlt] at hf
    exact Memory.wf_writeBytes _ _ _ (by simp; omega) h
  | ldVxK => simp only [effect]; split <;> exact h
  | _ => exact h

/-- R102: every entry in use is an address that CALL can push. -/
abbrev State.LiveStackOk (s : State) : Prop :=
  ∀ j : Fin 16, j.val < s.sp.val → 2 ≤ s.stack[j.val].toNat ∧ s.stack[j.val].toNat ≤ 4096

/-- R94: after a fetch PC does not wrap. -/
theorem pc_add_toNat (hpc : s.pc.toNat ≤ 4094) {n : Word} (hn : n.toNat ≤ 4) :
    (s.pc + n).toNat = s.pc.toNat + n.toNat := by
  rw [BitVec.toNat_add]
  omega

theorem effect_liveStackOk (hpc : s.pc.toNat ≤ 4094) (h : s.LiveStackOk) : (effect i s).LiveStackOk := by
  cases i with
  | call =>
    intro j (hj : j.val < min (s.sp.val + 1) 16)
    have hpush : (s.pc + 2).toNat = s.pc.toNat + 2 := pc_add_toNat hpc (by decide)
    rw [getElem_effect_call_stack]
    split
    · omega
    · exact h j (by omega)
  | ret => exact fun j (hj : j.val < s.sp.val - 1) => h j (by omega)
  | ldVxK => simp only [effect]; split <;> exact h
  | _ => exact h

/-- R23: PC stays at most 0x10FE, by R94's table. -/
theorem effect_pc_le (hs : s.running) (hf : executeFault i s = .noFault) (hpc : s.pc.toNat ≤ 4094)
    (h : s.LiveStackOk) : (effect i s).pc.toNat ≤ 0x10FE := by
  have hrow := (programCounterTable i s _ hs (exec_of_noFault hf)).2 (countdown_effect_running i hs)
  have h2 : (s.pc + 2).toNat = s.pc.toNat + 2 := pc_add_toNat hpc (by decide)
  have h4 : (s.pc + 4).toNat = s.pc.toNat + 4 := pc_add_toNat hpc (by decide)
  cases i with
  | jp nnn | call nnn =>
    have := nnn.isLt
    simp only at hrow
    omega
  | jpV0 nnn =>
    have := nnn.isLt
    have := s.v[0].isLt
    simp only at hrow
    omega
  | ret =>
    obtain ⟨j, hj, hret⟩ := hrow
    have := h j (by omega)
    rw [hret]
    omega
  | seByte | sneByte | seReg | sneReg | skp | sknp | ldVxK =>
    simp only at hrow
    rw [hrow]
    split <;> omega
  | _ =>
    simp only at hrow
    rw [hrow]
    omega

/-! ## The step lemmas -/

/-- Settles O50. -/
theorem stepKeepsInvariant : Obligations.StepKeepsInvariant := by
  intro s t ⟨hwf, hpc, hstack, herr⟩ h
  cases tickCase_of_step h with
  | halted _ ht => exact ht ▸ ⟨hwf, hpc, hstack, herr⟩
  | fetchNone _ _ ht => exact ht ▸ ⟨hwf, hpc, hstack, fun _ => rfl⟩
  | illegal w _ _ _ ht => exact ht ▸ ⟨hwf, hpc, hstack, fun hne => absurd rfl hne⟩
  | fault i _ _ _ ht => exact ht ▸ ⟨hwf, hpc, hstack, fun _ => rfl⟩
  | success i hs hi hf ht =>
    obtain ⟨w, hw, -⟩ := fetchInstr_some hi
    obtain ⟨hfetch, -⟩ := fetchWord_some hw
    exact ht ▸ ⟨effect_mem_wf hf hwf, effect_pc_le hs hf hfetch hstack, effect_liveStackOk hfetch hstack,
      by simpa using herr⟩

/-- Settles O51: a fault leaves what the fetch, the decoder and the fault table look at. -/
theorem stepKeepsFaultExplained : Obligations.StepKeepsFaultExplained := by
  intro s t h hstep
  cases tickCase_of_step hstep with
  | halted _ ht => exact ht ▸ h
  | fetchNone _ hf ht => exact ht ▸ .inr (.inl ⟨rfl, hf⟩)
  | illegal w _ hf hd ht => exact ht ▸ .inr (.inr (.inl ⟨rfl, hf, hd⟩))
  | fault i _ hi hf ht => exact ht ▸ .inr (.inr (.inr ⟨i, hi, executeFault_congr i rfl rfl rfl, hf⟩))
  | success i hs _ _ ht => exact ht ▸ .inl (countdown_effect_running i hs)

end Sys2Proof.Machine
end

section
/-! SUPPORT. The reset state (10_state.md R36), the canonical form of memory (log 10), and the host's moves
(70_reset_and_hazards.md R200 to R216). -/

namespace Sys2Proof.Machine

/-! ## Reset -/

/-- R36: beyond FONT reset memory is 0. -/
theorem Memory.unlisted_of_le {a : Nat} (h : 80 ≤ a) : Memory.unlisted a = 0 :=
  List.getD_eq_default _ _ h

/-- R27, R36: FONT at 0 to 79, and no further. -/
theorem State.resetWith_read (f : Font) (a : Nat) :
    (State.resetWith f).mem.read a = if h : a < 80 then f[a] else 0 := by
  rw [State.resetWith_mem, Memory.read_writeBytes, Memory.read_nil]
  by_cases h : a < 80
  · rw [dif_pos h, if_pos ⟨Nat.zero_le a, by simpa using h⟩, Nat.sub_zero,
      List.getD_eq_getElem _ _ (by simpa using h), Vector.getElem_toList]
  · rw [dif_neg h, if_neg (by simpa using h), Memory.unlisted_of_le (by omega)]

/-- Settles O1. -/
theorem resetStateIsTheTable : Obligations.ResetStateIsTheTable := by
  refine ⟨State.resetWith_defaultFont.symm, ?_⟩
  rintro f s rfl
  refine ⟨fun r => ?regs, rfl, rfl, fun j => ?stack, rfl, fun a => ?font, fun a h _ => ?zeros, rfl, rfl, rfl,
    fbGet_fbClear, rfl, rfl, rfl⟩
  case regs => exact Vector.getElem_replicate ..
  case stack => exact Vector.getElem_replicate ..
  case font => rw [State.resetWith_read, dif_pos a.isLt]
  case zeros => rw [State.resetWith_read, dif_neg (by omega)]

theorem State.resetWith_inv (f : Font) : (State.resetWith f).Inv := by
  have hpc : (512 : Word).toNat ≤ 0x10FE := by decide
  exact ⟨Memory.wf_writeBytes _ _ _ (by simp) Memory.wf_nil, hpc, fun j hj => absurd hj (Nat.not_lt_zero _),
    fun _ => rfl⟩

theorem Session.initial_inv (f : Font) : (Session.initial f).Inv :=
  ⟨State.resetWith_inv f, .inl rfl, fun _ => rfl, fun _ => rfl⟩

/-- Settles O2: after reset the core runs, and the stack is empty. -/
theorem resetMeetsInvariants : Obligations.ResetMeetsInvariants :=
  ⟨State.resetWith_defaultFont ▸ State.resetWith_inv defaultFont, .inl rfl,
    fun f => ⟨State.resetWith_inv f, .inl rfl, Session.initial_inv f⟩⟩

/-! ## The canonical memory -/

/-- An address below every listed one reads as unlisted. -/
theorem Memory.read_of_forall_lt {m : Memory} {a : Nat} (h : ∀ c ∈ m, a < c.1) :
    m.read a = Memory.unlisted a := by
  induction m with
  | nil => rfl
  | cons c rest ih =>
    have hne : c.1 ≠ a := (h c List.mem_cons_self).ne'
    exact (if_neg hne).trans (ih fun d hd => h d (List.mem_cons_of_mem c hd))

/-- A listed address reads otherwise in a memory that lists only higher ones. -/
theorem Memory.read_head_ne {m n : Memory} {a : Nat} {v : Byte} (hv : v ≠ Memory.unlisted a)
    (hn : ∀ c ∈ n, a < c.1) : Memory.read ((a, v) :: m) a ≠ n.read a := by
  rw [Memory.read_of_forall_lt hn, Memory.read, if_pos rfl]
  exact hv

/-- Settles O53: the lower of the two first addresses would tell the memories apart, so they are one address, with
one byte, and the rest of the two lists reads alike. -/
theorem canonicalMemoryIsUnique : Obligations.CanonicalMemoryIsUnique := by
  intro m
  simp only [Memory.wf_iff]
  induction m with
  | nil =>
    rintro (_ | ⟨⟨b, w⟩, n⟩) - ⟨-, hn⟩ hread
    · rfl
    · exact absurd (hread b).symm (Memory.read_head_ne (hn _ List.mem_cons_self).2 nofun)
  | cons c m ih =>
    obtain ⟨a, v⟩ := c
    rintro (_ | ⟨⟨b, w⟩, n⟩) ⟨hma, hm⟩ ⟨hnb, hn⟩ hread
    · exact absurd (hread a) (Memory.read_head_ne (hm _ List.mem_cons_self).2 nofun)
    rw [List.pairwise_cons] at hma hnb
    rw [List.forall_mem_cons] at hm hn
    rcases lt_trichotomy a b with hab | rfl | hba
    · exact absurd (hread a) (Memory.read_head_ne hm.1.2
        (List.forall_mem_cons.2 ⟨hab, fun c hc => hab.trans (hnb.1 c hc)⟩))
    · have hvw : v = w := by simpa [Memory.read] using hread a
      have hrest (x : Nat) : Memory.read m x = Memory.read n x := by
        by_cases hx : a = x
        · rw [← hx, Memory.read_of_forall_lt hma.1, Memory.read_of_forall_lt hnb.1]
        · simpa [Memory.read, hx] using hread x
      rw [hvw, ih n ⟨hma.2, hm.2⟩ ⟨hnb.2, hn.2⟩ hrest]
    · exact absurd (hread b).symm (Memory.read_head_ne hn.1.2
        (List.forall_mem_cons.2 ⟨hba, fun c hc => hba.trans (hma.1 c hc)⟩))

/-! ## Host moves -/

/-- Settles O58. -/
theorem resetFromAnyState : Obligations.ResetFromAnyState :=
  fun _ => ⟨_, rfl, rfl, rfl, rfl, rfl, rfl⟩

/-- Settles O59. -/
theorem hostWritesKeysAndRedrawOnly : Obligations.HostWritesKeysAndRedrawOnly :=
  fun _ _ => ⟨rfl, rfl⟩

/-- Settles O57: one run of bytes from 512 on, in the stage that R211 gives the load. -/
theorem loadPlacesImageOrIsRefused : Obligations.LoadPlacesImageOrIsRefused := by
  intro image h
  refine ⟨fun hlen hfresh => ?_, fun hlen hloaded => ?_, fun hlen hticked => ?_, fun hlen => if_pos hlen⟩
  · have hout (a : Nat) (ha : a < 512 ∨ 512 + image.length ≤ a) :
        (loadImage h.core image).mem.read a = h.core.mem.read a := by
      rw [loadImage, State.setMem_mem, Memory.read_writeBytes, if_neg (by omega)]
    refine ⟨{ h with core := loadImage h.core image, stage := .loaded }, ?next, fun k hk => ?stored, hout,
      fun hinv a ha => ?reset, rfl⟩
    case next => simp [Session.move, hfresh, hlen]
    case stored =>
      rw [loadImage, State.setMem_mem, Memory.read_writeBytes, if_pos (by omega), Nat.add_sub_cancel_left,
        List.getD_eq_getElem _ _ hk]
    case reset =>
      obtain ⟨-, -, -, hmem⟩ := hinv
      rw [← hmem hfresh]
      exact hout a ha
  · simp [Session.move, hloaded, hlen]
  · simp [Session.move, hticked, hlen]

/-- R183, R211: a load succeeds only with a short image right after reset. -/
theorem Session.move_load_next {image : List Byte} {h g : Session} (hm : Session.move (.load image) h = .next g) :
    image.length ≤ 3584 ∧ h.stage = .fresh ∧
      g = { h with core := loadImage h.core image, stage := .loaded } := by
  simp only [Session.move] at hm
  split_ifs at hm with hlen
  split at hm
  · next hfresh => exact ⟨by omega, hfresh, (Host.Outcome.next.inj hm).symm⟩
  · cases hm
  · cases hm

/-- R210: each move of the host keeps the invariant. -/
theorem Session.move_inv {m : HostMove} {h g : Session} (hinv : h.Inv) (hm : Session.move m h = .next g) : g.Inv := by
  obtain ⟨hcore, hfault, hrun, hmem⟩ := hinv
  cases m with
  | reset =>
    obtain rfl := Host.Outcome.next.inj hm
    exact ⟨State.resetWith_inv h.font, .inl rfl, fun _ => rfl, fun _ => rfl⟩
  | load image =>
    obtain ⟨hlen, hfresh, rfl⟩ := Session.move_load_next hm
    have hrunning : h.core.running := hrun (by simp [hfresh])
    obtain ⟨hwf, hrest⟩ := hcore
    exact ⟨⟨Memory.wf_writeBytes _ _ _ (by omega) hwf, hrest⟩, .inl hrunning, fun _ => hrunning, nofun⟩
  | setKeys | clearRedraw | read =>
    obtain rfl := Host.Outcome.next.inj hm
    exact ⟨hcore, hfault, hrun, hmem⟩
  | tick =>
    obtain ⟨t, ht⟩ := everyTickAnswersNext h.core
    simp only [Session.move, ht] at hm
    obtain rfl := Host.Outcome.next.inj hm
    exact ⟨stepKeepsInvariant _ _ hcore ht, stepKeepsFaultExplained _ _ hfault ht,
      fun hne => absurd rfl hne, nofun⟩

/-- Settles O52: by induction on the moves. -/
theorem hostMovesKeepInvariant : Obligations.HostMovesKeepInvariant := by
  intro ms
  induction ms with
  | nil =>
    intro h g hinv hms
    exact Host.Outcome.next.inj hms ▸ hinv
  | cons m rest ih =>
    intro h g hinv hms
    simp only [Session.moves] at hms
    split at hms
    · next k hk => exact ih k g (Session.move_inv hinv hk) hms
    · cases hms
    · cases hms

end Sys2Proof.Machine
end

section
/-! SUPPORT. The instructions one by one (41_control_flow.md to 45_keypad_timers.md): each with its whole next state,
through its effect or through the shared operation that it ends with. -/

namespace Sys2Proof.Machine

/-! ## Subroutines -/

/-- Settles O20. -/
theorem callPushesOrOverflows : Obligations.CallPushesOrOverflows := by
  intro nnn s
  constructor
  · intro hsp
    exact ⟨_, exec_of_noFault (if_neg hsp.ne), zext12_toNat nnn, Nat.min_eq_left hsp,
      fun j => (getElem_effect_call_stack nnn s j).trans (if_congr eq_comm rfl rfl), fun _ => rfl, rfl⟩
  · intro hsp
    exact exec_of_fault (if_pos hsp) (by decide)

/-- Settles O21. -/
theorem retPopsOrUnderflows : Obligations.RetPopsOrUnderflows := by
  intro s
  constructor
  · intro j hsp
    exact ⟨_, exec_of_noFault (if_neg (by omega)), by simp [effect, hsp], by simp [effect, hsp],
      fun _ => rfl, rfl⟩
  · intro hsp
    exact exec_of_fault (if_pos hsp) (by decide)

/-- Settles O22: RET finds SP one higher and takes it down again, to the entry that CALL wrote. -/
theorem callThenReturnRoundTrip : Obligations.CallThenReturnRoundTrip := by
  intro s nnn hs hsp hnnn hcall hret
  have ht := step_of_noFault hs hcall (if_neg hsp.ne)
  have hfetch : fetchInstr (countdown (effect (.call nnn) s)) = some .ret := by
    rw [fetchInstr, fetchWord, if_neg (by simp [effect]; omega), Option.bind_some]
    simpa [effect] using hret
  have hu := step_of_noFault (s := countdown (effect (.call nnn) s)) hs hfetch (if_neg (by simp [effect]))
  have hmin : min (s.sp.val + 1) 16 - 1 = s.sp.val := by omega
  refine ⟨_, _, ht, hu, ?_, ?_, rfl, rfl, fun _ => rfl, hs⟩
  · simp [effect, hmin]
  · simp [effect, hmin]

/-! ## Loads and the ALU group -/

/-- Settles O24. -/
theorem registerMove : Obligations.RegisterMove :=
  fun x y s => writePlain_spec x (s.getV y) s

/-- R123 with a flag: V[x] takes the result, VF, if it is not V[x], the flag, both as the reading `g` of bytes gives
them, and all else but PC is kept. -/
theorem writeFlagged_spec {α : Type} (g : Byte → α) {fr : Bool × Byte} {result flag : α}
    (hresult : g fr.2 = result) (hflag : g (flagByte fr.1) = flag) (x : Reg) (s : State) :
    ∃ t, writeFlagged x fr s = .next t ∧ t.pc = s.pc + 2 ∧
      (∀ r : Reg, g t.v[r.val] = if r = x then result else if r = 15 then flag else g s.v[r.val]) ∧
      t.i = s.i ∧ t.rndDraws = s.rndDraws ∧ s.sameBeyondRegs t := by
  refine ⟨(s.setFlagged x fr).advance 2, rfl, rfl, fun r => ?_, rfl, rfl, ?_⟩
  · rw [State.advance_v, State.getV_setFlagged, apply_ite g, apply_ite g, hresult, hflag]
  · simp [State.sameBeyondRegs, State.setFlagged]

/-- Settles O26. -/
theorem addWithCarry : Obligations.AddWithCarry :=
  fun x _ s => writeFlagged_spec BitVec.toNat (BitVec.toNat_add ..) (flagByte_decide _) x s

/-- R128, R130: the difference is taken modulo 256. -/
theorem sub_toNat_cast (a b : Byte) : ((a - b).toNat : Int) = ((a.toNat : Int) - b.toNat) % 256 := by
  have ha := a.isLt
  have hb := b.isLt
  rw [BitVec.toNat_sub]
  omega

theorem flagByte_decide_cast (p : Prop) [Decidable p] :
    ((flagByte (decide p)).toNat : Int) = if p then 1 else 0 := by
  rw [flagByte_decide, apply_ite Nat.cast, Nat.cast_one, Nat.cast_zero]

/-- Settles O27. -/
theorem subtractStrictFlag : Obligations.SubtractStrictFlag := by
  intro x y s
  constructor
  · exact writeFlagged_spec (fun b => (b.toNat : Int)) (sub_toNat_cast ..) (flagByte_decide_cast _) x s
  · exact writeFlagged_spec (fun b => (b.toNat : Int)) (sub_toNat_cast ..) (flagByte_decide_cast _) x s

/-- R21, R129, R131: a flag that is a bit of a byte, as VF holds it. -/
theorem flagByte_getLsbD_toNat (a : Byte) (k : Nat) : (flagByte (a.getLsbD k)).toNat = a.toNat / 2 ^ k % 2 :=
  (flagByte_toNat _).trans (Nat.toNat_testBit ..)

/-- Settles O28. -/
theorem shiftsByOne : Obligations.ShiftsByOne := by
  intro x y s
  constructor
  · refine writeFlagged_spec BitVec.toNat ?_ ?_ x s
    · simp [shrFlagged, Nat.shiftRight_eq_div_pow]
    · exact (flagByte_getLsbD_toNat s.v[x.val] 0).trans (by simp)
  · refine writeFlagged_spec BitVec.toNat ?_ ?_ x s
    · simp [shlFlagged, Nat.shiftLeft_eq]
    · have := s.v[x.val].isLt
      exact (flagByte_getLsbD_toNat s.v[x.val] 7).trans (by omega)

/-- Settles O29: one plain register write after the byte is consumed. -/
theorem randomByteIsMasked : Obligations.RandomByteIsMasked := by
  intro x kk s
  obtain ⟨t, hnext, hpc, hregs, hrest⟩ := writePlain_spec x (s.rndByte &&& kk) s.rndConsumed
  have hx : t.v[x.val] = s.rndByte &&& kk := (hregs x).trans (if_pos rfl)
  refine ⟨t, hnext, hpc, fun k => ?_, ?_, fun r hr => (hregs r).trans (if_neg hr), hrest⟩
  · rw [hx, BitVec.getLsbD_and]
  · rw [hx, BitVec.toNat_and]
    exact Nat.and_le_right

/-! ## Keypad and timers -/

/-- Settles O44. -/
theorem keySkips : Obligations.KeySkips := by
  intro x s
  constructor
  · intro hx
    have hskip (down : Bool) : skipOnKey x down s = skipIf (s.keys.getLsbD s.v[x.val].toNat == down) s := by
      rw [skipOnKey_eq, if_neg (by omega)]
    constructor
    · exact (hskip true).trans (skipIf_eq_of_iff beq_iff_eq)
    · refine (hskip false).trans ((skipIf_eq_of_iff beq_iff_eq).trans ?_)
      cases s.keys.getLsbD s.v[x.val].toNat <;> rfl
  · intro hx
    exact ⟨exec_of_fault (if_pos hx) (by decide), exec_of_fault (if_pos hx) (by decide)⟩

/-- Settles O45: the wait, or one plain register write of the highest key. -/
theorem keyWait : Obligations.KeyWait := by
  intro x s
  constructor
  · intro hkeys
    obtain ⟨-, hwait⟩ | ⟨k, hk, -⟩ := execLdVxK_cases x s
    · exact hwait
    · simp [(highestKey_eq_none_iff _).2 hkeys] at hk
  · intro hkeys
    obtain ⟨hnone, -⟩ | ⟨k, hk, htake⟩ := execLdVxK_cases x s
    · exact absurd ((highestKey_eq_none_iff _).1 hnone) hkeys
    · obtain ⟨hlt, hdown, hhigher⟩ := highestKeyBelow_some _ _ _ hk
      obtain ⟨t, hnext, hpc, hregs, hrest⟩ := writePlain_spec x (BitVec.ofNat 8 k) s
      have hx : t.v[x.val].toNat = k := by
        rw [(hregs x).trans (if_pos rfl), BitVec.toNat_ofNat]
        omega
      refine ⟨t, htake.trans hnext, by omega, by rwa [hx], fun j hj => ?_,
        fun r hr => (hregs r).trans (if_neg hr), hpc, hrest⟩
      rw [hx] at hj
      by_cases h16 : j < 16
      · exact hhigher j hj h16
      · exact BitVec.getLsbD_of_ge _ _ (by omega)

/-- Settles O46. -/
theorem timerMoves : Obligations.TimerMoves :=
  fun x s => ⟨writePlain_spec x s.dt s, rfl, rfl⟩

/-! ## The index register and memory -/

/-- Settles O31. -/
theorem addToIndex : Obligations.AddToIndex := by
  intro x s
  refine ⟨_, exec_of_noFault rfl, ?index, rfl, fun r => ?regs, rfl, ?frame⟩
  case index => simp [effect, indexAddFlagged]
  case regs =>
    simp only [effect, State.advance_v, State.setI_v, State.getV_setV]
    rw [apply_ite BitVec.toNat]
    exact if_congr eq_comm (flagByte_decide _) rfl
  case frame => simp [State.sameBeyondRegs, effect]

/-- Settles O32: 5 times a byte does not wrap. -/
theorem fontGlyphAddress : Obligations.FontGlyphAddress := by
  intro x s
  refine ⟨_, exec_of_noFault rfl, ?_, rfl, fun _ => rfl, rfl⟩
  have := s.v[x.val].isLt
  exact (BitVec.toNat_ofNat ..).trans (Nat.mod_eq_of_lt (by omega))

/-- R143: digit k of V[x] stands at I + k. -/
theorem read_effect_ldB (x : Reg) (s : State) {k : Nat} (hk : k < 3) :
    (effect (.ldB x) s).mem.read (dataAddr s k) = (bcdDigits s.v[x.val])[k] := by
  have hlen : (bcdDigits (s.getV x)).length = 3 := rfl
  refine (Memory.read_writeBytes ..).trans ?_
  rw [if_pos ⟨by simp, by simp only [dataAddr]; omega⟩, dataAddr, dataAddr, Nat.add_zero, Nat.add_sub_cancel_left,
    List.getD_eq_getElem _ _ hk]

/-- Settles O33. -/
theorem bcdStore : Obligations.BcdStore := by
  intro x s
  constructor
  · intro hi
    have hexec : exec (.ldB x) s = .next (effect (.ldB x) s) := exec_of_noFault (if_neg (Nat.not_lt.2 hi))
    have := s.v[x.val].isLt
    refine ⟨_, hexec, ?hundreds, ?tens, ?ones, fun a ha => memoryFrame _ s _ a hexec ?outside, rfl, rfl⟩
    case hundreds =>
      rw [read_effect_ldB x s (by decide)]
      exact (BitVec.toNat_ofNat ..).trans (Nat.mod_eq_of_lt (by omega))
    case tens =>
      rw [read_effect_ldB x s (by decide)]
      exact (BitVec.toNat_ofNat ..).trans (Nat.mod_eq_of_lt (by omega))
    case ones =>
      rw [read_effect_ldB x s (by decide)]
      exact (BitVec.toNat_ofNat ..).trans (Nat.mod_eq_of_lt (by omega))
    case outside =>
      simp only [storesTo, dataAddr] at ha ⊢
      omega
  · intro hi
    exact exec_of_fault (if_pos hi) (by decide)

/-- R144: byte k of the block at I is V[k]. -/
theorem read_effect_storeRegs {x k : Reg} (h : k ≤ x) (s : State) :
    (effect (.storeRegs x) s).mem.read (dataAddr s k.val) = s.v[k.val] := by
  have hk : k.val < (regBlock s.v x).length := by rw [length_regBlock]; exact Nat.lt_succ_of_le h
  refine (Memory.read_writeBytes ..).trans ?_
  rw [if_pos ⟨by simp, by simp only [dataAddr]; omega⟩, dataAddr, dataAddr, Nat.add_zero, Nat.add_sub_cancel_left,
    List.getD_eq_getElem _ _ hk, getElem_regBlock]

/-- R144, R145: I ends one past the block and does not wrap. -/
theorem nextIndex_toNat {s : State} {x : Reg} (h : dataAddr s x.val ≤ 4095) :
    (BitVec.ofNat 16 (dataAddr s (x.val + 1))).toNat = s.i.toNat + x.val + 1 := by
  rw [BitVec.toNat_ofNat]
  simp only [dataAddr] at h ⊢
  omega

/-- Settles O34. -/
theorem blockStore : Obligations.BlockStore := by
  intro x s
  constructor
  · intro hi
    have hexec : exec (.storeRegs x) s = .next (effect (.storeRegs x) s) := exec_of_noFault (if_neg (Nat.not_lt.2 hi))
    refine ⟨_, hexec, fun k hk => read_effect_storeRegs hk s, fun a ha => memoryFrame _ s _ a hexec ?_,
      nextIndex_toNat hi, rfl, rfl⟩
    rintro ⟨hlow, hhigh⟩
    exact ha.elim (Nat.not_lt.2 hlow) (Nat.not_lt.2 hhigh)
  · intro hi
    exact exec_of_fault (if_pos hi) (by decide)

/-- Settles O35. -/
theorem blockLoad : Obligations.BlockLoad := by
  intro x s
  constructor
  · intro hi
    exact ⟨_, exec_of_noFault (if_neg (Nat.not_lt.2 hi)), fun r => getV_effect_loadRegs x r s, nextIndex_toNat hi,
      rfl, rfl, by simp [State.sameBeyondRegs, effect]⟩
  · intro hi
    exact exec_of_fault (if_pos hi) (by decide)

/-- Settles O36: the load reads the block that the store wrote, and in range as the store was. -/
theorem blockStoreThenLoad : Obligations.BlockStoreThenLoad := by
  intro x s t regs hs hstore ht
  obtain ⟨hf, rfl⟩ | ⟨hf, rfl⟩ := exec_cases hstore
  · refine ⟨_, exec_of_noFault hf, fun k hk => ?_⟩
    rw [getV_effect_loadRegs, if_pos hk]
    exact read_effect_storeRegs hk s
  · exact absurd ht hf

/-- Settles O37: PC + 2, where the next fetch reads, is the address of the block's first byte. -/
theorem storeIsSeenByNextFetch : Obligations.StoreIsSeenByNextFetch := by
  intro x s t hs hx hi haddr hle hstep
  obtain rfl : countdown (effect (.storeRegs x) s) = t := by
    simpa [step_of_noFault hs hi (if_neg (Nat.not_lt.2 hle))] using hstep
  have hpc : (countdown (effect (.storeRegs x) s)).pc.toNat = dataAddr s 0 := by
    show (s.pc + 2).toNat = _
    simp only [dataAddr] at haddr hle ⊢
    rw [BitVec.toNat_add]
    simp
    omega
  have h0 := read_effect_storeRegs (Fin.zero_le x) s
  have h1 := read_effect_storeRegs (x := x) (k := 1) hx s
  rw [fetchWord, if_neg (by rw [hpc]; simp only [dataAddr] at hle ⊢; omega), hpc]
  exact congrArg some (congrArg₂ wordOfBytes h0 h1)

end Sys2Proof.Machine
end

section
/-! SUPPORT. DRW (44_display.md R150 to R155): what toggling a list of cells does, the number of a sprite's targets
at a cell as R154's h(c), and from these the closed form and the source's laws. -/

namespace Sys2Proof.Machine

/-! ## Toggling a list of cells -/

/-- R155: the set bits with the targets `ts`, drawn on `fb`, hit the cell while it is on or hit it twice. -/
def Collides (fb : Framebuffer) (ts : List (Fin 32 × Fin 64)) (row : Fin 32) (col : Fin 64) : Prop :=
  1 ≤ ts.count (row, col) ∧ (fbGet fb row col = true ∨ 2 ≤ ts.count (row, col))

/-- R152: each cell is inverted once for each time it is a target. -/
theorem fbGet_foldl_togglePixel (ts : List (Fin 32 × Fin 64)) (p : Framebuffer × Bool) (row : Fin 32)
    (col : Fin 64) :
    fbGet (ts.foldl togglePixel p).1 row col = (fbGet p.1 row col ^^ decide (ts.count (row, col) % 2 = 1)) := by
  induction ts generalizing p with
  | nil => simp
  | cons t ts ih =>
    obtain ⟨hcell, -⟩ := togglePixel_spec p t
    rw [List.foldl_cons, ih, hcell, List.count_cons]
    by_cases h : t = (row, col)
    · have hodd : decide ((ts.count (row, col) + 1) % 2 = 1) = !decide (ts.count (row, col) % 2 = 1) := by
        rw [← decide_not]; exact decide_eq_decide.2 (by omega)
      simp [h, hodd]
    · simp [h]

/-- R155: the first target finds its cell on, or the collision is one of the rest on the framebuffer it leaves. -/
theorem collides_cons (p : Framebuffer × Bool) (t : Fin 32 × Fin 64) (ts : List (Fin 32 × Fin 64)) :
    (fbGet p.1 t.1 t.2 = true ∨ ∃ row col, Collides (togglePixel p t).1 ts row col) ↔
      ∃ row col, Collides p.1 (t :: ts) row col := by
  have hcell (row : Fin 32) (col : Fin 64) : Collides p.1 (t :: ts) row col ↔
      (t = (row, col) ∧ fbGet p.1 t.1 t.2 = true) ∨ Collides (togglePixel p t).1 ts row col := by
    obtain ⟨htoggled, -⟩ := togglePixel_spec p t
    rw [Collides, Collides, htoggled, List.count_cons]
    by_cases h : t = (row, col)
    · subst h
      cases fbGet p.1 row col <;> simp
    · simp [h]
  simp only [hcell, exists_or]
  refine or_congr_left ⟨fun h => ⟨t.1, t.2, rfl, h⟩, fun ⟨_, _, _, h⟩ => h⟩

theorem foldl_togglePixel_snd (ts : List (Fin 32 × Fin 64)) (p : Framebuffer × Bool) :
    (ts.foldl togglePixel p).2 = true ↔ p.2 = true ∨ ∃ row col, Collides p.1 ts row col := by
  induction ts generalizing p with
  | nil => simp [Collides]
  | cons t ts ih =>
    obtain ⟨-, hnoted⟩ := togglePixel_spec p t
    rw [List.foldl_cons, ih, hnoted, Bool.or_eq_true, or_assoc, collides_cons]

/-- R150, R153: how many set bits of one row byte have a cell as their clamped target. -/
theorem count_rowTargets (vx r : Nat) (b : Byte) (row : Fin 32) (col : Fin 64) :
    (rowTargets vx r b).count (row, col) = (List.range 8).countP
      (fun j => b.getLsbD (7 - j) && min r 31 == row.val && min (vx + j) 63 == col.val) := by
  rw [rowTargets, List.count_eq_countP, List.countP_map, List.countP_filter]
  refine List.countP_congr fun j _ => ?_
  simp only [clampRow, clampCol, Function.comp_apply, Bool.and_eq_true, beq_iff_eq, Prod.mk.injEq, Fin.ext_iff]
  tauto

/-- R152: the targets of a sprite are those of its rows, one row byte after the other. -/
theorem count_spriteTargets (m : Memory) (vx row a n : Nat) (t : Fin 32 × Fin 64) :
    (spriteTargets vx row (m.readBytes a n)).count t =
      ((List.range n).map (fun k => (rowTargets vx (row + k) (m.read (a + k))).count t)).sum := by
  induction n generalizing row a with
  | zero => rfl
  | succ n ih =>
    rw [Memory.readBytes, spriteTargets, List.count_append, ih, List.range_succ_eq_map, List.map_cons, List.sum_cons,
      List.map_map]
    simp only [Function.comp_def, Nat.succ_eq_add_one, Nat.add_zero, Nat.add_assoc, Nat.add_comm 1]

/-- R154: h(c) counts the hits of the cell among the sprite's targets. -/
theorem count_spriteTargets_eq_spriteHits (s : State) (x y : Reg) (n : BitVec 4) (row : Fin 32) (col : Fin 64) :
    (spriteTargets (s.getV x).toNat (s.getV y).toNat (s.mem.readBytes (dataAddr s 0) n.toNat)).count (row, col) =
      spriteHits s x y n row col := by
  rw [count_spriteTargets, spriteHits, List.countP_flatMap]
  refine congrArg List.sum (List.map_congr_left fun k _ => ?_)
  rw [count_rowTargets, Function.comp_apply, List.countP_map]
  rfl

/-! ## The closed form -/

/-- R154: the cells that DRW draws. -/
theorem fbGet_drawn (s : State) (x y : Reg) (n : BitVec 4) (row : Fin 32) (col : Fin 64) :
    fbGet (s.drawn x y n).1 row col = (fbGet s.fb row col ^^ decide (spriteHits s x y n row col % 2 = 1)) := by
  rw [State.drawn, drawPixels, fbGet_foldl_togglePixel, count_spriteTargets_eq_spriteHits]

/-- R155: when DRW sets VF. -/
theorem drawn_snd (s : State) (x y : Reg) (n : BitVec 4) : (s.drawn x y n).2 = true ↔
    ∃ row col, 1 ≤ spriteHits s x y n row col ∧
      (fbGet s.fb row col = true ∨ 2 ≤ spriteHits s x y n row col) := by
  rw [State.drawn, drawPixels, foldl_togglePixel_snd]
  simp only [Collides, count_spriteTargets_eq_spriteHits, Bool.false_eq_true, false_or]

/-- Settles O39: in range DRW has its effect, whose cells and flag are given by h(c). -/
theorem drawClosedForm : Obligations.DrawClosedForm := by
  intro x y n s hrange
  have hf : ¬(0 < n.toNat ∧ 4095 < s.i.toNat + n.toNat - 1) := by
    rintro ⟨hpos, hlt⟩
    obtain rfl | hle := hrange
    · exact absurd hpos (by decide)
    · omega
  have hvf : (effect (.drw x y n) s).v[15] = flagByte (s.drawn x y n).2 := by simp [effect, vf]
  refine ⟨_, exec_of_noFault (if_neg hf), fbGet_drawn s x y n, ?binary, ?flag, fun r hr => ?frame,
    rfl, rfl, fun _ => rfl, rfl⟩
  case binary =>
    rw [hvf]
    cases (s.drawn x y n).2
    · exact .inr rfl
    · exact .inl rfl
  case flag =>
    rw [← drawn_snd, hvf]
    cases (s.drawn x y n).2 <;> decide
  case frame => exact State.getV_setV_of_ne hr s _

/-! ## Sprites that hit no cell twice -/

/-- R150, R153: pixel p.2 of the sprite's row p.1 is set, and the cell is its clamped target. -/
def SpritePixelHits (s : State) (x y : Reg) (row : Fin 32) (col : Fin 64) (p : Nat × Nat) : Prop :=
  (s.mem.read (s.i.toNat + p.1)).getLsbD (7 - p.2) = true ∧
    min (s.v[y.val].toNat + p.1) 31 = row.val ∧ min (s.v[x.val].toNat + p.2) 63 = col.val

/-- R154: h(c) is positive where some set pixel has its clamped target. -/
theorem spriteHits_pos_iff (s : State) (x y : Reg) (n : BitVec 4) (row : Fin 32) (col : Fin 64) :
    1 ≤ spriteHits s x y n row col ↔
      ∃ p : Nat × Nat, p.1 < n.toNat ∧ p.2 < 8 ∧ SpritePixelHits s x y row col p := by
  simp [spriteHits, SpritePixelHits, Nat.one_le_iff_ne_zero]

/-- R154: where at most one pixel can hit, h(c) is at most 1, as each pixel is counted once. -/
theorem spriteHits_le_one {s : State} {x y : Reg} {n : BitVec 4} {row : Fin 32} {col : Fin 64} (q : Nat × Nat)
    (hq : ∀ p : Nat × Nat, p.1 < n.toNat → p.2 < 8 → SpritePixelHits s x y row col p → p = q) :
    spriteHits s x y n row col ≤ 1 := by
  have hnodup : (List.range n.toNat ×ˢ List.range 8).Nodup := List.nodup_range.product List.nodup_range
  refine le_trans (List.countP_mono_left fun p hp h => ?_) (List.nodup_iff_count_le_one.1 hnodup q)
  obtain ⟨h1, h2⟩ := List.mem_product.1 hp
  simp only [Bool.and_eq_true, beq_iff_eq, and_assoc] at h
  exact beq_iff_eq.2 (hq p (List.mem_range.1 h1) (List.mem_range.1 h2) h)

/-- On a dark screen a sprite that hits no cell twice lights the cells it hits and leaves VF = 0. -/
theorem drw_on_dark {x y : Reg} {n : BitVec 4} {s : State} (hrange : n = 0 ∨ s.i.toNat + n.toNat - 1 ≤ 4095)
    (hdark : ∀ r c, fbGet s.fb r c = false) (hle : ∀ row col, spriteHits s x y n row col ≤ 1) :
    ∃ t, exec (.drw x y n) s = .next t ∧ t.v[15] = 0 ∧
      ∀ row col, (fbGet t.fb row col = true ↔
        ∃ p : Nat × Nat, p.1 < n.toNat ∧ p.2 < 8 ∧ SpritePixelHits s x y row col p) := by
  obtain ⟨t, hnext, hcells, hflag, hset, -⟩ := drawClosedForm x y n s hrange
  refine ⟨t, hnext, hflag.resolve_left fun h1 => ?_, fun row col => ?_⟩
  · obtain ⟨row, col, -, hon | htwice⟩ := hset.1 h1
    · simp [hdark] at hon
    · have := hle row col; omega
  · rw [← spriteHits_pos_iff, hcells, hdark, Bool.false_xor, decide_eq_true_iff]
    have := hle row col
    omega

/-- Settles O40: the one set pixel is pixel 0 of row 0. -/
theorem coordinatesClamp : Obligations.CoordinatesClamp := by
  intro x y s hi hread hdark
  have hhit (row : Fin 32) (col : Fin 64) (p : Nat × Nat) (hp1 : p.1 < (1 : BitVec 4).toNat) (hp2 : p.2 < 8) :
      SpritePixelHits s x y row col p ↔
        p = (0, 0) ∧ row.val = min s.v[y.val].toNat 31 ∧ col.val = min s.v[x.val].toNat 63 := by
    have hbits : ∀ j : Fin 8, (0x80 : Byte).getLsbD (7 - j.val) = decide (j.val = 0) := by decide
    obtain ⟨r, j⟩ := p
    obtain rfl : r = 0 := Nat.lt_one_iff.1 hp1
    simp only [SpritePixelHits, Nat.add_zero, hread, hbits ⟨j, hp2⟩, decide_eq_true_iff, Prod.mk.injEq, true_and]
    refine and_congr_right fun hj => ?_
    rw [hj, Nat.add_zero]
    exact and_congr eq_comm eq_comm
  have hone (row : Fin 32) (col : Fin 64) : spriteHits s x y 1 row col ≤ 1 :=
    spriteHits_le_one (0, 0) fun p hp1 hp2 h => ((hhit row col p hp1 hp2).1 h).1
  obtain ⟨t, hnext, hvf, hcells⟩ := drw_on_dark (.inr (by simpa using hi)) hdark hone
  refine ⟨t, hnext, hvf, fun row col => (hcells row col).trans ⟨?_, ?_⟩⟩
  · rintro ⟨p, hp1, hp2, h⟩
    exact ((hhit row col p hp1 hp2).1 h).2
  · intro h
    exact ⟨(0, 0), by decide, by decide, (hhit row col _ (by decide) (by decide)).2 ⟨rfl, h⟩⟩

/-- R64: a DRW without a fault drew from inside memory. -/
theorem drw_inRange {x y : Reg} {n : BitVec 4} {s t : State} (h : exec (.drw x y n) s = .next t)
    (ht : t.running) :
    n = 0 ∨ s.i.toNat + n.toNat - 1 ≤ 4095 := by
  obtain ⟨hf, -⟩ | ⟨hf, rfl⟩ := exec_cases h
  · by_contra hne
    obtain ⟨hn, hle⟩ := not_or.1 hne
    have hpos : 0 < n.toNat := Nat.pos_of_ne_zero fun h0 => hn (BitVec.eq_of_toNat_eq h0)
    exact absurd ((if_pos ⟨hpos, by omega⟩).symm.trans hf) (by decide)
  · exact absurd ht hf

/-- Settles O41: nothing is clamped, so a cell is hit by one pixel of the sprite or by none. -/
theorem fullSpriteOnDarkScreen : Obligations.FullSpriteOnDarkScreen := by
  intro x y n s t hs hdark hfull hx hy h ht
  have hhit (row : Fin 32) (col : Fin 64) (p : Nat × Nat) (hp1 : p.1 < n.toNat) (hp2 : p.2 < 8) :
      SpritePixelHits s x y row col p ↔ s.v[y.val].toNat + p.1 = row.val ∧ s.v[x.val].toNat + p.2 = col.val := by
    have hbits : ∀ j : Fin 8, (0xFF : Byte).getLsbD (7 - j.val) = true := by decide
    simp only [SpritePixelHits, hfull _ hp1, hbits ⟨p.2, hp2⟩, true_and]
    omega
  have hone (row : Fin 32) (col : Fin 64) : spriteHits s x y n row col ≤ 1 := by
    refine spriteHits_le_one (row.val - s.v[y.val].toNat, col.val - s.v[x.val].toNat) fun p hp1 hp2 hp => ?_
    obtain ⟨hrow, hcol⟩ := (hhit row col p hp1 hp2).1 hp
    exact Prod.ext (by simp only; omega) (by simp only; omega)
  obtain ⟨_, hnext, hvf, hcells⟩ := drw_on_dark (drw_inRange h ht) hdark hone
  obtain rfl := Host.Outcome.next.inj (h.symm.trans hnext)
  refine ⟨hvf, fun row col => (hcells row col).trans ⟨?_, fun ⟨h1, h2, h3, h4⟩ => ?_⟩⟩
  · rintro ⟨p, hp1, hp2, hp⟩
    obtain ⟨hrow, hcol⟩ := (hhit row col p hp1 hp2).1 hp
    omega
  · have hp1 : row.val - s.v[y.val].toNat < n.toNat := by omega
    have hp2 : col.val - s.v[x.val].toNat < 8 := by omega
    refine ⟨(_, _), hp1, hp2, (hhit row col (_, _) hp1 hp2).2 ?_⟩
    simp only
    omega

theorem Framebuffer.ext_fbGet {fb fb' : Framebuffer} (h : ∀ row col, fbGet fb row col = fbGet fb' row col) :
    fb = fb' := by
  ext r hr c hc
  exact h ⟨r, hr⟩ ⟨c, hc⟩

/-- A byte that is not 0 has a set bit; pixel j is bit 7 - j (R150). -/
theorem exists_getLsbD_of_ne_zero {b : Byte} (h : b ≠ 0) : ∃ j, j < 8 ∧ b.getLsbD (7 - j) = true := by
  by_contra hnone
  simp only [not_exists, not_and, Bool.not_eq_true] at hnone
  refine h (BitVec.eq_of_getLsbD_eq fun i hi => ?_)
  have hbit := hnone (7 - i) (by omega)
  rw [show 7 - (7 - i) = i by omega] at hbit
  simpa using hbit

/-- Settles O42: both draws have the same h(c), whose parity cancels; a cell hit once is on for the second draw. -/
theorem drawingTwiceRestores : Obligations.DrawingTwiceRestores := by
  intro x y n s t u hs hfirst ht hsecond
  obtain ⟨_, hnext, hcells, -, -, -, -, -, hmem, hframe⟩ := drawClosedForm x y n s (drw_inRange hfirst ht)
  obtain rfl := Host.Outcome.next.inj (hfirst.symm.trans hnext)
  have hi : t.i = s.i := by rw [hframe]
  have hhits (row : Fin 32) (col : Fin 64) :
      spriteHits { t with v := s.v } x y n row col = spriteHits s x y n row col := by
    simp only [spriteHits, hi, hmem]
  obtain ⟨_, hnext', hcells', -, hset', -⟩ := drawClosedForm x y n { t with v := s.v }
    (by rw [hi]; exact drw_inRange hfirst ht)
  obtain rfl := Host.Outcome.next.inj (hsecond.symm.trans hnext')
  constructor
  · refine Framebuffer.ext_fbGet fun row col => ?_
    rw [hcells', hhits, hcells, Bool.xor_assoc, Bool.xor_self, Bool.xor_false]
  · rintro hdark ⟨k, hk, hne⟩
    obtain ⟨j, hj, hbit⟩ := exists_getLsbD_of_ne_zero hne
    have hpos : 1 ≤ spriteHits s x y n (clampRow (s.v[y.val].toNat + k)) (clampCol (s.v[x.val].toNat + j)) :=
      (spriteHits_pos_iff ..).2 ⟨(k, j), hk, hj, hbit, rfl, rfl⟩
    refine hset'.2 ⟨_, _, by rwa [hhits], ?_⟩
    rw [hhits, hcells, hdark, Bool.false_xor, decide_eq_true_iff]
    omega

end Sys2Proof.Machine
end
